-- ==== Sys2Proof/Word.lean ====
section
/-! DEFINITION. The widths of the hardware: bytes, 16-bit words, register numbers, 12-bit addresses
(spec 00_scope.md R5, R9; 30_encoding.md R101). All values are unsigned. -/

namespace Sys2Proof

/-- A general register, a memory byte or a timer: 8 bits (R5 `REGW`, `TIMER_W`). -/
abbrev Byte := BitVec 8

/-- `I`, `PC`, a stack entry or an instruction word: 16 bits (R5 `IW`, `PCW`, `STACK_W`). -/
abbrev Word := BitVec 16

/-- A register number, the `X` or `Y` field: 4 bits, so every value names a register (R30). -/
abbrev RegNo := BitVec 4

/-- A nibble of an instruction word (R101). -/
abbrev Nibble := BitVec 4

/-- The 12-bit address field `NNN` (R101). -/
abbrev Addr12 := BitVec 12

end Sys2Proof
end

