-- ==== Sys2Proof/Machine/Flags.lean ====
section
/-! DEFINITION. The results and flags of arithmetic and shifts (spec 42_alu.md R157 to R161, R164): operands are read as
naturals, results are reduced modulo 256, the flag is a byte that is 0 or 1. -/

namespace Sys2Proof.Machine

/-- A flag value. -/
def flagOf (c : Bool) : Byte := if c then 1 else 0

/-- `(a + b) mod 256` (R152, R157). -/
def addResult (a b : Byte) : Byte := BitVec.ofNat 8 (a.toNat + b.toNat)

/-- Carry: 1 on unsigned overflow past 255 (R157). -/
def addFlag (a b : Byte) : Byte := flagOf (decide (a.toNat + b.toNat > 255))

/-- `(a - b) mod 256`, the least non-negative residue (R158, 00_scope.md R10). -/
def subResult (a b : Byte) : Byte := BitVec.ofInt 8 ((a.toNat : Int) - (b.toNat : Int))

/-- No borrow: 1 when `a >= b` (R158). -/
def subFlag (a b : Byte) : Byte := flagOf (decide (a.toNat ≥ b.toNat))

/-- `s >> 1`, bit 7 of the result 0 (R159). -/
def shrResult (a : Byte) : Byte := BitVec.ofNat 8 (a.toNat / 2)

/-- The bit shifted out on the right: bit 0 (R159). -/
def shrFlag (a : Byte) : Byte := flagOf (a.getLsbD 0)

/-- `(s << 1) mod 256` (R161). -/
def shlResult (a : Byte) : Byte := BitVec.ofNat 8 (a.toNat * 2)

/-- The bit shifted out on the left: bit 7 (R161). -/
def shlFlag (a : Byte) : Byte := flagOf (a.getLsbD 7)

end Sys2Proof.Machine
end

