-- ==== Sys2Proof/Syntax.lean ====
section
/-! DEFINITION. The instructions: one constructor per row of spec/opcode_table.json (30_encoding.md R105), in the
table's order. Operands have the width of their encoding field (R101), so every term has an encoding. -/

namespace Sys2Proof

/-- The 35 instructions of R105. -/
inductive Instr where
  /-- `CLS` (44_draw.md R204). -/
  | cls
  /-- `RET` (41_control_flow.md R137). -/
  | ret
  /-- `JP nnn` (R135). -/
  | jp (nnn : Addr12)
  /-- `CALL nnn` (R136). -/
  | call (nnn : Addr12)
  /-- `SE Vx,kk` (R138). -/
  | seVxKk (x : RegNo) (kk : Byte)
  /-- `SNE Vx,kk` (R139). -/
  | sneVxKk (x : RegNo) (kk : Byte)
  /-- `SE Vx,Vy` (R140). -/
  | seVxVy (x y : RegNo)
  /-- `LD Vx,kk` (42_alu.md R151). -/
  | ldVxKk (x : RegNo) (kk : Byte)
  /-- `ADD Vx,kk` (R152). -/
  | addVxKk (x : RegNo) (kk : Byte)
  /-- `LD Vx,Vy` (R153). -/
  | ldVxVy (x y : RegNo)
  /-- `OR Vx,Vy` (R154). -/
  | orVxVy (x y : RegNo)
  /-- `AND Vx,Vy` (R155). -/
  | andVxVy (x y : RegNo)
  /-- `XOR Vx,Vy` (R156). -/
  | xorVxVy (x y : RegNo)
  /-- `ADD Vx,Vy` (R157). -/
  | addVxVy (x y : RegNo)
  /-- `SUB Vx,Vy` (R158). -/
  | subVxVy (x y : RegNo)
  /-- `SHR Vx,Vy` (R159). -/
  | shrVxVy (x y : RegNo)
  /-- `SUBN Vx,Vy` (R160). -/
  | subnVxVy (x y : RegNo)
  /-- `SHL Vx,Vy` (R161). -/
  | shlVxVy (x y : RegNo)
  /-- `SNE Vx,Vy` (41_control_flow.md R141). -/
  | sneVxVy (x y : RegNo)
  /-- `LD I,nnn` (43_memory_block.md R180). -/
  | ldI (nnn : Addr12)
  /-- `JP V0,nnn` (41_control_flow.md R142). -/
  | jpV0 (nnn : Addr12)
  /-- `RND Vx,kk` (42_alu.md R163). -/
  | rnd (x : RegNo) (kk : Byte)
  /-- `DRW Vx,Vy,n` (44_draw.md R201). -/
  | drw (x y : RegNo) (n : Nibble)
  /-- `SKP Vx` (46_input.md R231). -/
  | skp (x : RegNo)
  /-- `SKNP Vx` (R232). -/
  | sknp (x : RegNo)
  /-- `EXIT Vx` (47_execution_engine.md R249). -/
  | exitVx (x : RegNo)
  /-- `LD Vx,DT` (45_timer.md R216). -/
  | ldVxDt (x : RegNo)
  /-- `LD Vx,K` (46_input.md R233). -/
  | ldVxK (x : RegNo)
  /-- `LD DT,Vx` (45_timer.md R217). -/
  | ldDtVx (x : RegNo)
  /-- `LD ST,Vx` (R218). -/
  | ldStVx (x : RegNo)
  /-- `ADD I,Vx` (43_memory_block.md R181). -/
  | addIVx (x : RegNo)
  /-- `LD F,Vx` (R182). -/
  | ldFVx (x : RegNo)
  /-- `LD B,Vx` (R183). -/
  | ldBVx (x : RegNo)
  /-- `LD [I],Vx` (R185). -/
  | ldMemVx (x : RegNo)
  /-- `LD Vx,[I]` (R187). -/
  | ldVxMem (x : RegNo)
  deriving DecidableEq, Repr

/-- The register an instruction names in its `X` field, if it has that operand (30_encoding.md R101, R105). -/
def Instr.xField (i : Instr) : Option RegNo :=
  match i with
  | .cls | .ret | .jp _ | .call _ | .ldI _ | .jpV0 _ => none
  | .seVxKk x _ | .sneVxKk x _ | .seVxVy x _ | .ldVxKk x _ | .addVxKk x _ | .ldVxVy x _ | .orVxVy x _ | .andVxVy x _
  | .xorVxVy x _ | .addVxVy x _ | .subVxVy x _ | .shrVxVy x _ | .subnVxVy x _ | .shlVxVy x _ | .sneVxVy x _
  | .rnd x _ | .drw x _ _ | .skp x | .sknp x | .exitVx x | .ldVxDt x | .ldVxK x | .ldDtVx x | .ldStVx x | .addIVx x
  | .ldFVx x | .ldBVx x | .ldMemVx x | .ldVxMem x => some x

end Sys2Proof
end

