-- ==== Sys2Proof/Decode.lean ====
section
/-! DEFINITION. The encoding of instructions (spec 30_encoding.md): the fields of a word (R101), the decoder (R105,
R107), total on every word and on every list of bytes, and the encoder, written from the same map. `opRow` gives each
instruction its `match` and `mask` of R105. -/

namespace Sys2Proof

/-! ## Fields (R101) -/

/-- `G = w[15:12]`. -/
def fieldG (w : Word) : Nibble := w.extractLsb' 12 4
/-- `X = w[11:8]`. -/
def fieldX (w : Word) : RegNo := w.extractLsb' 8 4
/-- `Y = w[7:4]`. -/
def fieldY (w : Word) : RegNo := w.extractLsb' 4 4
/-- `N = w[3:0]`. -/
def fieldN (w : Word) : Nibble := w.extractLsb' 0 4
/-- `HI = w[15:8]`. -/
def fieldHI (w : Word) : Byte := w.extractLsb' 8 8
/-- `KK = w[7:0]`. -/
def fieldKK (w : Word) : Byte := w.extractLsb' 0 8
/-- `NNN = w[11:0]`. -/
def fieldNNN (w : Word) : Addr12 := w.extractLsb' 0 12

/-! ## Decoder -/

/-- Why bytes are no instruction. -/
inductive Reject where
  /-- Fewer than two bytes: every instruction is two (R100). -/
  | truncated
  /-- The word matches no row of R105 (R107). -/
  | undefinedOpcode (w : Word)
  deriving DecidableEq, Repr

/-- Group 0: the whole word is fixed. -/
def decodeGroup0 (w : Word) : Except Reject Instr :=
  match (fieldHI w).toNat, (fieldKK w).toNat with
  | 0x00, 0xE0 => .ok .cls
  | 0x00, 0xEE => .ok .ret
  | _, _ => .error (.undefinedOpcode w)

/-- Groups 5 and 9: `N` must be 0. -/
def decodeN0 (w : Word) (i : Instr) : Except Reject Instr :=
  match (fieldN w).toNat with
  | 0x0 => .ok i
  | _ => .error (.undefinedOpcode w)

/-- Group 8: `N` selects the operation. -/
def decodeGroup8 (w : Word) : Except Reject Instr :=
  match (fieldN w).toNat with
  | 0x0 => .ok (.ldVxVy (fieldX w) (fieldY w))
  | 0x1 => .ok (.orVxVy (fieldX w) (fieldY w))
  | 0x2 => .ok (.andVxVy (fieldX w) (fieldY w))
  | 0x3 => .ok (.xorVxVy (fieldX w) (fieldY w))
  | 0x4 => .ok (.addVxVy (fieldX w) (fieldY w))
  | 0x5 => .ok (.subVxVy (fieldX w) (fieldY w))
  | 0x6 => .ok (.shrVxVy (fieldX w) (fieldY w))
  | 0x7 => .ok (.subnVxVy (fieldX w) (fieldY w))
  | 0xE => .ok (.shlVxVy (fieldX w) (fieldY w))
  | _ => .error (.undefinedOpcode w)

/-- Group E: `KK` selects the operation. -/
def decodeGroupE (w : Word) : Except Reject Instr :=
  match (fieldKK w).toNat with
  | 0x9E => .ok (.skp (fieldX w))
  | 0xA1 => .ok (.sknp (fieldX w))
  | _ => .error (.undefinedOpcode w)

/-- Group F: `KK` selects the operation. -/
def decodeGroupF (w : Word) : Except Reject Instr :=
  match (fieldKK w).toNat with
  | 0x00 => .ok (.exitVx (fieldX w))
  | 0x07 => .ok (.ldVxDt (fieldX w))
  | 0x0A => .ok (.ldVxK (fieldX w))
  | 0x15 => .ok (.ldDtVx (fieldX w))
  | 0x18 => .ok (.ldStVx (fieldX w))
  | 0x1E => .ok (.addIVx (fieldX w))
  | 0x29 => .ok (.ldFVx (fieldX w))
  | 0x33 => .ok (.ldBVx (fieldX w))
  | 0x55 => .ok (.ldMemVx (fieldX w))
  | 0x65 => .ok (.ldVxMem (fieldX w))
  | _ => .error (.undefinedOpcode w)

/-- The instruction a word selects (R105), or its rejection (R107). A word of group C is always `RND` here; the
machine halts on it when `P_ADMIT_RND` is false (log 15). -/
def decode (w : Word) : Except Reject Instr :=
  match (fieldG w).toNat with
  | 0x0 => decodeGroup0 w
  | 0x1 => .ok (.jp (fieldNNN w))
  | 0x2 => .ok (.call (fieldNNN w))
  | 0x3 => .ok (.seVxKk (fieldX w) (fieldKK w))
  | 0x4 => .ok (.sneVxKk (fieldX w) (fieldKK w))
  | 0x5 => decodeN0 w (.seVxVy (fieldX w) (fieldY w))
  | 0x6 => .ok (.ldVxKk (fieldX w) (fieldKK w))
  | 0x7 => .ok (.addVxKk (fieldX w) (fieldKK w))
  | 0x8 => decodeGroup8 w
  | 0x9 => decodeN0 w (.sneVxVy (fieldX w) (fieldY w))
  | 0xA => .ok (.ldI (fieldNNN w))
  | 0xB => .ok (.jpV0 (fieldNNN w))
  | 0xC => .ok (.rnd (fieldX w) (fieldKK w))
  | 0xD => .ok (.drw (fieldX w) (fieldY w) (fieldN w))
  | 0xE => decodeGroupE w
  | _ => decodeGroupF w

/-- The word two bytes in memory order make: big-endian (20_memory.md R75). -/
def wordOfBytes (hi lo : Byte) : Word := hi ++ lo

/-- The decoder on bytes in memory order: one instruction and the bytes after it. -/
def decodeBytes : List Byte → Except Reject (Instr × List Byte)
  | hi :: lo :: rest => (decode (wordOfBytes hi lo)).map fun i => (i, rest)
  | _ => .error .truncated

/-! ## Encoder -/

/-- Format `A`: `G[4] NNN[12]` (R103). -/
def packA (g : Nibble) (nnn : Addr12) : Word := g ++ nnn
/-- Formats `K` and `S`: `G[4] X[4] KK[8]` (R103). -/
def packK (g : Nibble) (x : RegNo) (kk : Byte) : Word := g ++ x ++ kk
/-- Format `R`: `G[4] X[4] Y[4] N[4]` (R103). -/
def packR (g : Nibble) (x y : RegNo) (n : Nibble) : Word := g ++ x ++ y ++ n

/-- The word of an instruction (R105). -/
def encode (i : Instr) : Word :=
  match i with
  | .cls => 0x00E0
  | .ret => 0x00EE
  | .jp nnn => packA 0x1 nnn
  | .call nnn => packA 0x2 nnn
  | .seVxKk x kk => packK 0x3 x kk
  | .sneVxKk x kk => packK 0x4 x kk
  | .seVxVy x y => packR 0x5 x y 0x0
  | .ldVxKk x kk => packK 0x6 x kk
  | .addVxKk x kk => packK 0x7 x kk
  | .ldVxVy x y => packR 0x8 x y 0x0
  | .orVxVy x y => packR 0x8 x y 0x1
  | .andVxVy x y => packR 0x8 x y 0x2
  | .xorVxVy x y => packR 0x8 x y 0x3
  | .addVxVy x y => packR 0x8 x y 0x4
  | .subVxVy x y => packR 0x8 x y 0x5
  | .shrVxVy x y => packR 0x8 x y 0x6
  | .subnVxVy x y => packR 0x8 x y 0x7
  | .shlVxVy x y => packR 0x8 x y 0xE
  | .sneVxVy x y => packR 0x9 x y 0x0
  | .ldI nnn => packA 0xA nnn
  | .jpV0 nnn => packA 0xB nnn
  | .rnd x kk => packK 0xC x kk
  | .drw x y n => packR 0xD x y n
  | .skp x => packK 0xE x 0x9E
  | .sknp x => packK 0xE x 0xA1
  | .exitVx x => packK 0xF x 0x00
  | .ldVxDt x => packK 0xF x 0x07
  | .ldVxK x => packK 0xF x 0x0A
  | .ldDtVx x => packK 0xF x 0x15
  | .ldStVx x => packK 0xF x 0x18
  | .addIVx x => packK 0xF x 0x1E
  | .ldFVx x => packK 0xF x 0x29
  | .ldBVx x => packK 0xF x 0x33
  | .ldMemVx x => packK 0xF x 0x55
  | .ldVxMem x => packK 0xF x 0x65

/-- The bytes of an instruction in memory order (R100, 20_memory.md R75). -/
def encodeBytes (i : Instr) : List Byte := [fieldHI (encode i), fieldKK (encode i)]

/-! ## The opcode map -/

/-- A row of R105: a word `w` selects it when `w &&& mask = pat`. -/
structure OpRow where
  /-- The `match` column. -/
  pat : Word
  /-- The `mask` column. -/
  mask : Word
  deriving DecidableEq, Repr

/-- The row of R105 an instruction belongs to. -/
def Instr.opRow (i : Instr) : OpRow :=
  match i with
  | .cls => ⟨0x00E0, 0xFFFF⟩
  | .ret => ⟨0x00EE, 0xFFFF⟩
  | .jp _ => ⟨0x1000, 0xF000⟩
  | .call _ => ⟨0x2000, 0xF000⟩
  | .seVxKk _ _ => ⟨0x3000, 0xF000⟩
  | .sneVxKk _ _ => ⟨0x4000, 0xF000⟩
  | .seVxVy _ _ => ⟨0x5000, 0xF00F⟩
  | .ldVxKk _ _ => ⟨0x6000, 0xF000⟩
  | .addVxKk _ _ => ⟨0x7000, 0xF000⟩
  | .ldVxVy _ _ => ⟨0x8000, 0xF00F⟩
  | .orVxVy _ _ => ⟨0x8001, 0xF00F⟩
  | .andVxVy _ _ => ⟨0x8002, 0xF00F⟩
  | .xorVxVy _ _ => ⟨0x8003, 0xF00F⟩
  | .addVxVy _ _ => ⟨0x8004, 0xF00F⟩
  | .subVxVy _ _ => ⟨0x8005, 0xF00F⟩
  | .shrVxVy _ _ => ⟨0x8006, 0xF00F⟩
  | .subnVxVy _ _ => ⟨0x8007, 0xF00F⟩
  | .shlVxVy _ _ => ⟨0x800E, 0xF00F⟩
  | .sneVxVy _ _ => ⟨0x9000, 0xF00F⟩
  | .ldI _ => ⟨0xA000, 0xF000⟩
  | .jpV0 _ => ⟨0xB000, 0xF000⟩
  | .rnd _ _ => ⟨0xC000, 0xF000⟩
  | .drw _ _ _ => ⟨0xD000, 0xF000⟩
  | .skp _ => ⟨0xE09E, 0xF0FF⟩
  | .sknp _ => ⟨0xE0A1, 0xF0FF⟩
  | .exitVx _ => ⟨0xF000, 0xF0FF⟩
  | .ldVxDt _ => ⟨0xF007, 0xF0FF⟩
  | .ldVxK _ => ⟨0xF00A, 0xF0FF⟩
  | .ldDtVx _ => ⟨0xF015, 0xF0FF⟩
  | .ldStVx _ => ⟨0xF018, 0xF0FF⟩
  | .addIVx _ => ⟨0xF01E, 0xF0FF⟩
  | .ldFVx _ => ⟨0xF029, 0xF0FF⟩
  | .ldBVx _ => ⟨0xF033, 0xF0FF⟩
  | .ldMemVx _ => ⟨0xF055, 0xF0FF⟩
  | .ldVxMem _ => ⟨0xF065, 0xF0FF⟩

/-! ## The words of spec/opcode_table.json -/

/-- The two bytes, in memory order, of an instruction whose bits are `w` as the table numbers them (bit 15 of the word
is the first byte's bit 7); bits from `nbits` on are 0. -/
def tableBytes (nbits w : Nat) : List Byte :=
  let word : Word := BitVec.ofNat 16 (w % 2 ^ nbits)
  [fieldHI word, fieldKK word]

/-- The instruction the decoder reads from a word numbered as spec/opcode_table.json numbers it. -/
def decodeTableWord (nbits w : Nat) : Option Instr :=
  match decodeBytes (tableBytes nbits w) with
  | .ok (i, _) => some i
  | .error _ => none

end Sys2Proof
end

