-- ==== Sys2Proof/Config.lean ====
section
/-! DEFINITION. What an implementation or a session fixes (spec 00_scope.md R6, R8; 10_state.md R42) and the free
values the spec leaves open (42_alu.md R163; 44_draw.md R202; 47_execution_engine.md R253), with the type of the
events one of them ranges over. The machine's State holds one `Config` and one `QCfg`, so that a statement about every
state is a statement about every choice of them (log 1). -/

namespace Sys2Proof

/-- The parameters of a hardware instance (R6). `MEM_INIT`, a function from addresses to bytes, is held as the list of
its bytes that are not 0x00 (log 3). -/
structure Config where
  /-- `MEM_SIZE`: memory is the addresses `0 .. memSize - 1`. -/
  memSize : Nat
  /-- `LOAD_ADDR`, which is also `PROG_START` and the reset `PC` (R7, C1). -/
  loadAddr : Nat
  /-- `FONT_BASE`: the address of glyph 0. -/
  fontBase : Nat
  /-- `FONT_DATA`: 16 glyphs of 5 bytes (10_state.md R40). -/
  fontData : Vector Byte 80
  /-- `MEM_INIT`: address and byte; an address without an entry starts as 0x00. -/
  memInit : List Host.Cell
  deriving DecidableEq, Repr

/-- The constraints R6 puts on the parameters. -/
def Config.wf (c : Config) : Bool :=
  decide (2 ≤ c.memSize) && decide (c.memSize ≤ 65535) && decide (c.loadAddr < c.memSize)
    && decide (c.fontBase + 80 ≤ c.loadAddr)

/-- The quirk configuration register `QCFG` (10_state.md R42): five booleans, constant for a session (R8). -/
structure QCfg where
  /-- Bit 0, `Q_SHIFT_VX`: a shift works on `V[X]` in place (42_alu.md R162). -/
  shiftVx : Bool
  /-- Bit 1, `Q_KEEP_I`: block operations leave `I` alone (43_memory_block.md R188). -/
  keepI : Bool
  /-- Bit 2, `Q_ZERO16`: a sprite of height 0 has 16 rows (44_draw.md R200). -/
  zero16 : Bool
  /-- Bit 3, `P_SHIFT_Y0_VX`: a shift with `Y = 0` works on `V[X]` (42_alu.md R162). -/
  shiftY0Vx : Bool
  /-- Bit 4, `P_ADMIT_RND`: group 0xC is an instruction (42_alu.md R163). -/
  admitRnd : Bool
  deriving DecidableEq, Repr

/-- The byte `draw_byte()` gives at the `n`-th free draw, once no byte of the `rnd` port is given (42_alu.md R163: "a
fresh unconstrained byte at every execution"). FREE VALUE, log 9. -/
opaque Config.freeByte : Nat → Byte

/-- The surface's answer to the `n`-th free `plot_xor`, once no answer is given (44_draw.md R202: "assumes nothing
else of them"). FREE VALUE, log 10. -/
opaque Config.freeAnswer : Nat → Bool

namespace Machine

/-- The key latch `KEY` (46_input.md R230). -/
inductive KeyLatch where
  | none
  | cancel
  | key (k : Byte)
  deriving DecidableEq, Repr

/-- Which transition comes next: a step of one of the three agents, or a reset (47_execution_engine.md R253;
70_reset_and_hazards.md R300, R305). -/
inductive Event where
  /-- One `step` strobe: the engine's `Step()`. -/
  | step
  /-- One `tick` strobe: the timer subsystem's `Tick()`. -/
  | tick
  /-- The environment gives the key latch a value. -/
  | key (k : KeyLatch)
  /-- `rst` with `cfg_q` and the program image. -/
  | reset (q : QCfg) (prog : List Byte)
  deriving DecidableEq, Repr, Inhabited

end Machine

/-- The `n`-th free transition, once the state schedules none of its own (47_execution_engine.md R253: "every
interleaving of `Step()`, `Tick()` and key changes is a possible run"). FREE VALUE, log 8. -/
opaque Config.freeEvent : Nat → Machine.Event

end Sys2Proof
end

