-- ==== Sys2Proof/Machine/Params.lean ====
section
/-! DEFINITION. The spec's default parameters (00_scope.md R6; 10_state.md R40, R42), which `State.reset` takes. No
meaning depends on them: each reads the parameters its state holds. -/

namespace Sys2Proof.Machine

/-- The default `FONT_DATA`, glyphs 0 to F (10_state.md R40). PRESUMED, log 2. -/
def defaultFont : Vector Byte 80 :=
  #v[0xF0, 0x90, 0x90, 0x90, 0xF0, 0x20, 0x60, 0x20, 0x20, 0x70, 0xF0, 0x10, 0xF0, 0x80, 0xF0, 0xF0, 0x10, 0xF0, 0x10, 0xF0,
    0x90, 0x90, 0xF0, 0x10, 0x10, 0xF0, 0x80, 0xF0, 0x10, 0xF0, 0xF0, 0x80, 0xF0, 0x90, 0xF0, 0xF0, 0x10, 0x20, 0x40, 0x40,
    0xF0, 0x90, 0xF0, 0x90, 0xF0, 0xF0, 0x90, 0xF0, 0x10, 0xF0, 0xF0, 0x90, 0xF0, 0x90, 0x90, 0xE0, 0x90, 0xE0, 0x90, 0xE0,
    0xF0, 0x80, 0x80, 0x80, 0xF0, 0xE0, 0x90, 0x90, 0x90, 0xE0, 0xF0, 0x80, 0xF0, 0x80, 0xF0, 0xF0, 0x80, 0xF0, 0x80, 0x80]

/-- The default parameters of R6. PRESUMED, log 1; `MEM_INIT` all zero, DESIGN CHOICE, log 3. -/
def defaultConfig : Config :=
  { memSize := 4096, loadAddr := 0x200, fontBase := 0x050, fontData := defaultFont, memInit := [] }

/-- The `QCFG` of `State.reset`: R6's defaults for the two `P_` bits; for the three quirks, which have no default
(D43), false. DESIGN CHOICE, log 5. -/
def defaultQCfg : QCfg :=
  { shiftVx := false, keepI := false, zero16 := false, shiftY0Vx := true, admitRnd := true }

end Sys2Proof.Machine
end

