-- ==== Sys2Proof/Machine/State.lean ====
section
/-! DEFINITION. The state of the core (spec 10_state.md), the inputs and outputs of its ports (R52), and the state
after reset with an empty program (70_reset_and_hazards.md R300). -/

namespace Sys2Proof.Machine

/-- The run state `RUN` (10_state.md R43). -/
inductive RunState where
  | running
  | halted
  deriving DecidableEq, Repr

/-- The halt causes (60_exceptions.md R270); their numbers are `Cause.code`. -/
inductive Cause where
  /-- Code 0: still running. -/
  | none
  | endOfProgram
  | exit
  | keyCancel
  | undefinedOpcode
  | outOfRange
  | stackOverflow
  | stackUnderflow
  | programTooLarge
  deriving DecidableEq, Repr

/-- The halt record `HALT` (10_state.md R44). -/
structure HaltRecord where
  cause : Cause
  pc : Word
  word : Word
  addr : BitVec 17
  exit : Byte
  deriving DecidableEq, Repr

/-- The record while `RUN = Running`: all fields 0 (R44). -/
def HaltRecord.zero : HaltRecord := { cause := .none, pc := 0, word := 0, addr := 0, exit := 0 }

/-- A request on an output port (10_state.md R52). Coordinates are passed as unreduced naturals (44_draw.md R202). -/
inductive Request where
  /-- `plot_xor(x, y)`. -/
  | plotXor (x y : Nat)
  /-- `clear()`. -/
  | clear
  /-- `redraw()`. -/
  | redraw
  /-- `start_tone(d)`, `d` sixtieths of a second. -/
  | startTone (d : Byte)
  /-- `stop_tone()`. -/
  | stopTone
  deriving DecidableEq, Repr

/-- Which transitions come once `State.events` is used up (47_execution_engine.md R253; log 8). -/
inductive Later where
  /-- These, over and over. -/
  | cycle (first : Event) (rest : List Event)
  /-- Free ones without a reset: a session never ends (00_scope.md R8). -/
  | session (n : Nat)
  /-- Free ones, resets included. -/
  | free (n : Nat)
  deriving DecidableEq, Repr

/-- The bytes of memory that differ from what an unlisted address reads as (`initByte`): address and byte, in
strictly rising order of addresses. -/
abbrev Memory := List Host.Cell

/-- The state. The first block is the core's, the second the session's parameters, the third the ports: the key latch,
and the model's own record of what the outside does (`events`, `later`, `rndIn`, `plotIn`, `free`) and is asked
(`requests`). -/
structure State where
  /-- `V[0]`..`V[15]` (R30). -/
  v : Vector Byte 16
  /-- `I` (R34). -/
  idx : Word
  /-- `PC` (R35). -/
  pc : Word
  /-- `STACK[0]`..`STACK[15]` (R37). -/
  stack : Vector Word 16
  /-- `SP`, 0..16 (R37). -/
  sp : Fin 17
  /-- `MEM` (R39). -/
  mem : Memory
  /-- `DT` (R41). -/
  dt : Byte
  /-- `ST` (R41). -/
  st : Byte
  /-- `RUN` (R43). -/
  run : RunState
  /-- `HALT` (R44). -/
  halt : HaltRecord
  /-- `PROG_END` (R45). -/
  progEnd : BitVec 17
  /-- `QCFG` (R42). -/
  qcfg : QCfg
  /-- The parameters of 00_scope.md R6. -/
  cfg : Config
  /-- The key latch input (R48). -/
  key : KeyLatch
  /-- The coming transitions, the next one first (log 8). -/
  events : List Event
  /-- The transitions after those (log 8). -/
  later : Later
  /-- The bytes the `rnd` port gives to the coming draws (log 9). -/
  rndIn : List Byte
  /-- The surface's answers to the coming `plot_xor` requests (log 10). -/
  plotIn : List Bool
  /-- How many free values have been used (log 11). -/
  free : Nat
  /-- The requests issued so far, oldest first (log 12). -/
  requests : List Request
  deriving DecidableEq, Repr

/-- Why a step would stop with a fault: never. Every exceptional event of this hardware is a halt, that is a next
state with `RUN = Halted` (47_execution_engine.md R251, 60_exceptions.md R282), so the type has no constructor and
nothing raises it (log 13; safe). -/
inductive Fault
  deriving DecidableEq, Repr

/-- Why a step would answer nothing. -/
inductive Refusal where
  /-- Raised by an arm of `exec` whose instruction has no meaning yet; no arm raises it now (safe). -/
  | notModelled (mnemonic : String)
  deriving DecidableEq, Repr

/-- Right after reset with the default parameters and an empty program (10_state.md R53; 70_reset_and_hazards.md
R300, R301 with `PROG_LEN = 0`): `PC = PROG_END = LOAD_ADDR`, `RUN = Running`. The zeros of `V`, `I`, `STACK`, `DT`,
`ST` are D6's (log 4); the port fields are the model's (log 7 to 12). -/
def State.reset : State :=
  { v := Vector.replicate 16 0, idx := 0, pc := BitVec.ofNat 16 defaultConfig.loadAddr,
    stack := Vector.replicate 16 0, sp := 0, mem := [], dt := 0, st := 0,
    run := .running, halt := HaltRecord.zero, progEnd := BitVec.ofNat 17 defaultConfig.loadAddr,
    qcfg := defaultQCfg, cfg := defaultConfig,
    key := .none, events := [], later := .cycle .step [], rndIn := [], plotIn := [], free := 0, requests := [] }

end Sys2Proof.Machine
end

