-- ==== Sys2Proof/Machine/Ops.lean ====
section
/-! DEFINITION. The named operations over registers, memory and ports (spec 00_scope.md R11, R12, R15; 20_memory.md
R73 to R75), the halt (47_execution_engine.md R251), which is this hardware's one way of taking an exception, and the
control-flow helpers every skipping or jumping instruction shares (41_control_flow.md R130 to R134). There is no return
from a halt (60_exceptions.md R283): only reset leaves it. -/

namespace Sys2Proof.Machine

/-! ## General registers -/

/-- `V[x]` (R11). -/
def State.reg (s : State) (x : RegNo) : Byte := s.v[x.toNat]'(x.isLt)

/-- `V[x] <- b` (R11). -/
def State.setReg (s : State) (x : RegNo) (b : Byte) : State := { s with v := s.v.set x.toNat b x.isLt }

/-- The flag register `VF` (10_state.md R31). -/
def flagReg : RegNo := 15

/-- Result first, flag second, so the flag wins when `x = 15` (10_state.md R32). -/
def State.setResultAndFlag (s : State) (x : RegNo) (result flag : Byte) : State :=
  (s.setReg x result).setReg flagReg flag

/-! ## Memory -/

/-- The byte listed for address `a`. -/
def Memory.find : Memory → Nat → Option Byte
  | [], _ => none
  | (b, u) :: m, a => if a = b then some u else Memory.find m a

/-- List `v` for address `a`, keeping addresses in rising order. -/
def Memory.insertCell (a : Nat) (v : Byte) : Memory → Memory
  | [] => [(a, v)]
  | (b, u) :: m =>
    if a < b then (a, v) :: (b, u) :: m
    else if a = b then (a, v) :: m
    else (b, u) :: Memory.insertCell a v m

/-- List nothing for address `a`. -/
def Memory.eraseCell (a : Nat) : Memory → Memory
  | [] => []
  | (b, u) :: m => if a = b then Memory.eraseCell a m else (b, u) :: Memory.eraseCell a m

/-- What an unlisted address reads as: its content at reset before the program is loaded (10_state.md R39), that is
`FONT_DATA` in the font table and `MEM_INIT` elsewhere. -/
def initByte (c : Config) (a : Nat) : Byte :=
  if h : c.fontBase ≤ a ∧ a < c.fontBase + 80 then c.fontData[a - c.fontBase]'(by omega)
  else (Memory.find c.memInit a).getD 0

/-- `MEM[a] <- v` on the list: a byte equal to what an unlisted address reads as is not listed. -/
def Memory.write (c : Config) (m : Memory) (a : Nat) (v : Byte) : Memory :=
  if v = initByte c a then Memory.eraseCell a m else Memory.insertCell a v m

/-- The canonical form: addresses below `MEM_SIZE` and strictly rising, no entry equal to what an unlisted address
reads as. -/
def Memory.wf (c : Config) : Memory → Bool
  | [] => true
  | (a, v) :: m =>
    decide (a < c.memSize) && decide (v ≠ initByte c a) && m.all (fun e => decide (a < e.1)) && Memory.wf c m

/-- `MEM[a]`. -/
def State.byteAt (s : State) (a : Nat) : Byte := (Memory.find s.mem a).getD (initByte s.cfg a)

/-- `MEM[a] <- v`. -/
def State.setByte (s : State) (a : Nat) (v : Byte) : State := { s with mem := Memory.write s.cfg s.mem a v }

/-- `MemRead(a, 1)` (R73); `none` is `OutOfRange(a)`. -/
def State.readByte (s : State) (a : Nat) : Option Byte :=
  if a < s.cfg.memSize then some (s.byteAt a) else none

/-- `MemWrite(a, 1, v)` (R74); `none` is `OutOfRange(a)`. -/
def State.writeByte (s : State) (a : Nat) (v : Byte) : Option State :=
  if a < s.cfg.memSize then some (s.setByte a v) else none

/-- `MemRead(a, 2)`, the fetch (R75): the byte at the lower address is the high byte; `none` is
`OutOfRange(a + 1)`. -/
def State.readWord (s : State) (a : Nat) : Option Word :=
  if a + 1 < s.cfg.memSize then some (wordOfBytes (s.byteAt a) (s.byteAt (a + 1))) else none

/-- Write bytes at ascending addresses from `a`; the second component is the first address out of range, and the
bytes before it stay written (R86). -/
def storeRun (a : Nat) : List Byte → State → State × Option Nat
  | [], s => (s, none)
  | b :: bs, s =>
    match s.writeByte a b with
    | none => (s, some a)
    | some s' => storeRun (a + 1) bs s'

/-- Load registers from ascending addresses from `a`; the second component is the first address out of range, and the
registers before it stay loaded (R86). -/
def loadRun (a : Nat) : List RegNo → State → State × Option Nat
  | [], s => (s, none)
  | x :: xs, s =>
    match s.readByte a with
    | none => (s, some a)
    | some b => loadRun (a + 1) xs (s.setReg x b)

/-- `AdvanceI(c)` (43_memory_block.md R188). -/
def State.advanceI (s : State) (c : Nat) : State :=
  if s.qcfg.keepI then s else { s with idx := BitVec.ofNat 16 (s.idx.toNat + c) }

/-! ## Ports -/

/-- One request on an output port (R15). -/
def State.request (s : State) (r : Request) : State := { s with requests := s.requests ++ [r] }

/-- `draw_byte()` (42_alu.md R163): the `rnd` port's next byte, else a free value. -/
def State.drawByte (s : State) : Byte × State :=
  match s.rndIn with
  | b :: bs => (b, { s with rndIn := bs })
  | [] => (Config.freeByte s.free, { s with free := s.free + 1 })

/-- The surface's next answer, else a free value (44_draw.md R202). -/
def State.takeAnswer (s : State) : Bool × State :=
  match s.plotIn with
  | b :: bs => (b, { s with plotIn := bs })
  | [] => (Config.freeAnswer s.free, { s with free := s.free + 1 })

/-- `plot_xor(x, y)` (44_draw.md R202): the request, and the surface's answer to it. -/
def State.plotXor (s : State) (x y : Nat) : Bool × State := (s.request (.plotXor x y)).takeAnswer

/-- The output `audio_gate` (45_timer.md R219). -/
def State.audioGate (s : State) : Bool := decide (s.st ≠ 0)

/-- The output `running` (47_execution_engine.md R254). -/
def State.running (s : State) : Bool := decide (s.run = .running)

/-! ## The halt -/

/-- The numeric code of a cause, the output `halt_cause` (60_exceptions.md R270). -/
def Cause.code : Cause → BitVec 4
  | .none => 0
  | .endOfProgram => 1
  | .exit => 2
  | .keyCancel => 3
  | .undefinedOpcode => 4
  | .outOfRange => 5
  | .stackOverflow => 6
  | .stackUnderflow => 7
  | .programTooLarge => 8

/-- `raise K(info)` and `halt K(info)` (R251): `RUN <- Halted` and the record is filled; nothing else changes. -/
def State.haltAt (s : State) (k : Cause) (pc0 w : Word) (addr : Nat) (exitCode : Byte) : State :=
  { s with
    run := .halted
    halt := { cause := k, pc := pc0, word := w, addr := BitVec.ofNat 17 addr, exit := exitCode } }

/-- The halt out of the instruction `i`, whose fetch left `PC = pc0 + 2` (00_scope.md R14), so `pc0 = PC - 2` and the
word is `i`'s (log 14). -/
def State.haltIn (s : State) (i : Instr) (k : Cause) (addr : Nat) (exitCode : Byte) : State :=
  s.haltAt k (s.pc - 2) (encode i) addr exitCode

/-- `raise OutOfRange(a)` out of the instruction `i` (60_exceptions.md R272). -/
def State.outOfRange (s : State) (i : Instr) (a : Nat) : State := s.haltIn i .outOfRange a 0

/-! ## Control flow -/

/-- `InRegion(a)` (R130): `PROG_START <= a < MEM_SIZE`. -/
def inRegion (c : Config) (a : Nat) : Bool := decide (c.loadAddr ≤ a) && decide (a < c.memSize)

/-- `Jump(a)` (R131) in the instruction `i`. -/
def State.jumpTo (s : State) (i : Instr) (a : Nat) : State :=
  if inRegion s.cfg a then { s with pc := BitVec.ofNat 16 a } else s.outOfRange i a

/-- `Call(a)` (R132) in the instruction `i`. -/
def State.callTo (s : State) (i : Instr) (a : Nat) : State :=
  if h : s.sp.val < 16 then
    if inRegion s.cfg a then
      { s with
        stack := s.stack.set s.sp.val s.pc h
        sp := ⟨s.sp.val + 1, Nat.add_lt_add_right h 1⟩
        pc := BitVec.ofNat 16 a }
    else s.outOfRange i a
  else s.haltIn i .stackOverflow a 0

/-- `Return()` (R133) in the instruction `i`. -/
def State.returnFrom (s : State) (i : Instr) : State :=
  if h : s.sp.val = 0 then s.haltIn i .stackUnderflow 0 0
  else
    { s with
      sp := ⟨s.sp.val - 1, by omega⟩
      pc := s.stack[s.sp.val - 1]'(by omega) }

/-- `SkipIf(c)` (R134) in the instruction `i`. -/
def State.skipIf (s : State) (i : Instr) (c : Bool) : State :=
  if c then s.jumpTo i (s.pc.toNat + 2) else s

end Sys2Proof.Machine
end

