-- ==== Sys2Proof/Machine/Operands.lean ====
section
/-! DEFINITION. The operand forms: which value or address an instruction works on (spec 42_alu.md R162;
43_memory_block.md R182 to R187; 44_draw.md R200; 41_control_flow.md R142, R144). Addresses are naturals, never wrapped
(20_memory.md R79). -/

namespace Sys2Proof.Machine

/-- `ShiftSrc(X, Y)` (R162): variant A, the source's `Y = 0` rule, variant B. -/
def State.shiftSrc (s : State) (x y : RegNo) : Byte :=
  if s.qcfg.shiftVx then s.reg x
  else if s.qcfg.shiftY0Vx && decide (y = 0) then s.reg x
  else s.reg y

/-- The effective address `I + k` (R79). -/
def State.dataAddr (s : State) (k : Nat) : Nat := s.idx.toNat + k

/-- The target `V[0] + NNN` of the indirect jump (R142, R144). -/
def State.indirectTarget (s : State) (nnn : Addr12) : Nat := (s.reg 0).toNat + nnn.toNat

/-- `FONT_BASE + 5 * d`, `d` the low nibble of the register (R182). -/
def fontAddr (c : Config) (v : Byte) : Word := BitVec.ofNat 16 (c.fontBase + 5 * (v.extractLsb' 0 4).toNat)

/-- The digits `BCD store` writes: hundreds, tens, ones (R183). -/
def bcdDigits (v : Byte) : List Byte :=
  [BitVec.ofNat 8 (v.toNat / 100), BitVec.ofNat 8 (v.toNat / 10 % 10), BitVec.ofNat 8 (v.toNat % 10)]

/-- The registers `lo .. hi` of a block operation, in ascending order (R184, R186). -/
def regRange (lo hi : RegNo) : List RegNo :=
  (List.range (hi.toNat + 1 - lo.toNat)).map fun k => BitVec.ofNat 4 (lo.toNat + k)

/-- `Rows(N)` (R200). -/
def spriteRows (q : QCfg) (n : Nibble) : Nat :=
  if n = 0 then (if q.zero16 then 16 else 0) else n.toNat

end Sys2Proof.Machine
end

