-- ==== Sys2Proof/Machine/Alu.lean ====
section
/-! DEFINITION. The meanings of the ALU and register instructions (spec 42_alu.md R151 to R163). All operands are read
before any write (R150); `PC` and memory do not change. -/

namespace Sys2Proof.Machine

/-- `LD Vx,kk` (R151). -/
def execLdVxKk (x : RegNo) (kk : Byte) (s : State) : Host.Outcome State Fault Refusal :=
  .next (s.setReg x kk)

/-- `ADD Vx,kk` (R152): no flag. -/
def execAddVxKk (x : RegNo) (kk : Byte) (s : State) : Host.Outcome State Fault Refusal :=
  .next (s.setReg x (addResult (s.reg x) kk))

/-- `LD Vx,Vy` (R153). -/
def execLdVxVy (x y : RegNo) (s : State) : Host.Outcome State Fault Refusal :=
  .next (s.setReg x (s.reg y))

/-- `OR Vx,Vy` (R154): no flag. -/
def execOrVxVy (x y : RegNo) (s : State) : Host.Outcome State Fault Refusal :=
  .next (s.setReg x (s.reg x ||| s.reg y))

/-- `AND Vx,Vy` (R155): no flag. -/
def execAndVxVy (x y : RegNo) (s : State) : Host.Outcome State Fault Refusal :=
  .next (s.setReg x (s.reg x &&& s.reg y))

/-- `XOR Vx,Vy` (R156): no flag. -/
def execXorVxVy (x y : RegNo) (s : State) : Host.Outcome State Fault Refusal :=
  .next (s.setReg x (s.reg x ^^^ s.reg y))

/-- `ADD Vx,Vy` (R157): flag = carry. -/
def execAddVxVy (x y : RegNo) (s : State) : Host.Outcome State Fault Refusal :=
  .next (s.setResultAndFlag x (addResult (s.reg x) (s.reg y)) (addFlag (s.reg x) (s.reg y)))

/-- `SUB Vx,Vy` (R158): flag = no borrow. -/
def execSubVxVy (x y : RegNo) (s : State) : Host.Outcome State Fault Refusal :=
  .next (s.setResultAndFlag x (subResult (s.reg x) (s.reg y)) (subFlag (s.reg x) (s.reg y)))

/-- `SHR Vx,Vy` (R159): flag = the bit shifted out of the value `ShiftSrc` gives. -/
def execShrVxVy (x y : RegNo) (s : State) : Host.Outcome State Fault Refusal :=
  .next (s.setResultAndFlag x (shrResult (s.shiftSrc x y)) (shrFlag (s.shiftSrc x y)))

/-- `SUBN Vx,Vy` (R160): `V[Y] - V[X]`, flag = no borrow. -/
def execSubnVxVy (x y : RegNo) (s : State) : Host.Outcome State Fault Refusal :=
  .next (s.setResultAndFlag x (subResult (s.reg y) (s.reg x)) (subFlag (s.reg y) (s.reg x)))

/-- `SHL Vx,Vy` (R161): flag = the bit shifted out of the value `ShiftSrc` gives. -/
def execShlVxVy (x y : RegNo) (s : State) : Host.Outcome State Fault Refusal :=
  .next (s.setResultAndFlag x (shlResult (s.shiftSrc x y)) (shlFlag (s.shiftSrc x y)))

/-- `RND Vx,kk` (R163): a drawn byte masked by `kk`; the halt of an undefined opcode when group 0xC is not admitted
(log 15). -/
def execRnd (x : RegNo) (kk : Byte) (s : State) : Host.Outcome State Fault Refusal :=
  if s.qcfg.admitRnd then .next (s.drawByte.2.setReg x (s.drawByte.1 &&& kk))
  else .next (s.haltIn (.rnd x kk) .undefinedOpcode 0 0)

end Sys2Proof.Machine
end

