-- ==== Sys2Proof/Machine/ControlFlow.lean ====
section
/-! DEFINITION. The meanings of the control-flow instructions (spec 41_control_flow.md R135 to R142). On entry
`PC = pc0 + 2`. None writes a general register or memory. -/

namespace Sys2Proof.Machine

/-- `JP nnn` (R135). -/
def execJp (nnn : Addr12) (s : State) : Host.Outcome State Fault Refusal :=
  .next (s.jumpTo (.jp nnn) nnn.toNat)

/-- `CALL nnn` (R136). -/
def execCall (nnn : Addr12) (s : State) : Host.Outcome State Fault Refusal :=
  .next (s.callTo (.call nnn) nnn.toNat)

/-- `RET` (R137). -/
def execRet (s : State) : Host.Outcome State Fault Refusal :=
  .next (s.returnFrom .ret)

/-- `SE Vx,kk` (R138). -/
def execSeVxKk (x : RegNo) (kk : Byte) (s : State) : Host.Outcome State Fault Refusal :=
  .next (s.skipIf (.seVxKk x kk) (decide (s.reg x = kk)))

/-- `SNE Vx,kk` (R139). -/
def execSneVxKk (x : RegNo) (kk : Byte) (s : State) : Host.Outcome State Fault Refusal :=
  .next (s.skipIf (.sneVxKk x kk) (decide (s.reg x ≠ kk)))

/-- `SE Vx,Vy` (R140). -/
def execSeVxVy (x y : RegNo) (s : State) : Host.Outcome State Fault Refusal :=
  .next (s.skipIf (.seVxVy x y) (decide (s.reg x = s.reg y)))

/-- `SNE Vx,Vy` (R141). -/
def execSneVxVy (x y : RegNo) (s : State) : Host.Outcome State Fault Refusal :=
  .next (s.skipIf (.sneVxVy x y) (decide (s.reg x ≠ s.reg y)))

/-- `JP V0,nnn` (R142): `Jump(V[0] + NNN)`, the sum not reduced (R144). -/
def execJpV0 (nnn : Addr12) (s : State) : Host.Outcome State Fault Refusal :=
  .next (s.jumpTo (.jpV0 nnn) (s.indirectTarget nnn))

end Sys2Proof.Machine
end

