-- ==== Sys2Proof/Machine/Draw.lean ====
section
/-! DEFINITION. The meanings of the draw engine (spec 44_draw.md R200 to R204). Requests go out row by row from the top,
left to right within a row; the surface's answers come from the state's port fields (log 10). `PC` and `I` do not
change. -/

namespace Sys2Proof.Machine

/-- Column `c` of a row `b` at `(x0, y)` (R201, the inner `if`): `c = 0` is bit 7. The Bool is `plotted`. -/
def plotPixel (x0 y : Nat) (b : Byte) (acc : Bool × State) (c : Nat) : Bool × State :=
  if b.getLsbD (7 - c) then
    let (was, s) := acc.2.plotXor (x0 + c) y
    (true, if was then s.setReg flagReg 1 else s)
  else acc

/-- The eight columns of a row `b` at `(x0, y)` (R201, the inner loop). -/
def plotRow (x0 y : Nat) (b : Byte) (acc : Bool × State) : Bool × State :=
  (List.range 8).foldl (plotPixel x0 y b) acc

/-- The rows of a sprite whose bytes start at `i0` (R201, the outer loop); the second component is the first address
out of range, the rows before it stay plotted. -/
def plotRows (x0 y0 i0 : Nat) : List Nat → Bool × State → (Bool × State) × Option Nat
  | [], acc => (acc, none)
  | r :: rs, acc =>
    match acc.2.readByte (i0 + r) with
    | none => (acc, some (i0 + r))
    | some b => plotRows x0 y0 i0 rs (plotRow x0 (y0 + r) b acc)

/-- The end of a draw `i` (R201, R203): `redraw()` if a request was issued, or the halt at the first address out of
range, without it. -/
def finishDraw (i : Instr) (r : (Bool × State) × Option Nat) : State :=
  match r with
  | ((plotted, s), none) => if plotted then s.request .redraw else s
  | ((_, s), some a) => s.outOfRange i a

/-- `DRW Vx,Vy,n` (R201): the origin and `I` are read before `VF` is cleared. -/
def execDrw (x y : RegNo) (n : Nibble) (s : State) : Host.Outcome State Fault Refusal :=
  .next (finishDraw (.drw x y n)
    (plotRows (s.reg x).toNat (s.reg y).toNat (s.dataAddr 0) (List.range (spriteRows s.qcfg n))
      (false, s.setReg flagReg 0)))

/-- `CLS` (R204). -/
def execCls (s : State) : Host.Outcome State Fault Refusal :=
  .next ((s.request .clear).request .redraw)

end Sys2Proof.Machine
end

