-- ==== Sys2Proof/Machine/Input.lean ====
section
/-! DEFINITION. The meanings of the input gate (spec 46_input.md R231 to R233), the only instructions that read the key
latch (R234). -/

namespace Sys2Proof.Machine

/-- The latch holds exactly the key `b` (R231: false when it holds none). -/
def State.keyIs (s : State) (b : Byte) : Bool := decide (s.key = .key b)

/-- `halt KeyCancel()` out of the instruction `i` (60_exceptions.md R270). -/
def State.keyCancel (s : State) (i : Instr) : State := s.haltIn i .keyCancel 0 0

/-- `SKP Vx` (R231): the cancel key is tested first. -/
def execSkp (x : RegNo) (s : State) : Host.Outcome State Fault Refusal :=
  if s.key = .cancel then .next (s.keyCancel (.skp x))
  else .next (s.skipIf (.skp x) (s.keyIs (s.reg x)))

/-- `SKNP Vx` (R232): the cancel key is tested first; no key skips. -/
def execSknp (x : RegNo) (s : State) : Host.Outcome State Fault Refusal :=
  if s.key = .cancel then .next (s.keyCancel (.sknp x))
  else .next (s.skipIf (.sknp x) (!s.keyIs (s.reg x)))

/-- `LD Vx,K` (R233): with no key the instruction stays where it is and nothing else changes. -/
def execLdVxK (x : RegNo) (s : State) : Host.Outcome State Fault Refusal :=
  match s.key with
  | .none => .next { s with pc := s.pc - 2 }
  | .cancel => .next (s.keyCancel (.ldVxK x))
  | .key k => .next (s.setReg x k)

end Sys2Proof.Machine
end

