-- ==== Sys2Proof/Machine/MemoryBlock.lean ====
section
/-! DEFINITION. The meanings of the index-pointer and memory-block instructions (spec 43_memory_block.md R180 to R188).
`PC` does not change. An instruction that meets an address out of range keeps what it did before it and leaves `I` alone
(R183, R184, R186; log 16). -/

namespace Sys2Proof.Machine

/-- `LD I,nnn` (R180). -/
def execLdI (nnn : Addr12) (s : State) : Host.Outcome State Fault Refusal :=
  .next { s with idx := nnn.setWidth 16 }

/-- `ADD I,Vx` (R181): modulo 65536, no flag, no check. -/
def execAddIVx (x : RegNo) (s : State) : Host.Outcome State Fault Refusal :=
  .next { s with idx := BitVec.ofNat 16 (s.idx.toNat + (s.reg x).toNat) }

/-- `LD F,Vx` (R182). -/
def execLdFVx (x : RegNo) (s : State) : Host.Outcome State Fault Refusal :=
  .next { s with idx := fontAddr s.cfg (s.reg x) }

/-- The end of a block instruction `i` that moved `count` bytes: `AdvanceI` after the last access, or the halt at the
first address out of range (R183, R184, R186, R188). -/
def finishBlock (i : Instr) (count : Nat) (r : State × Option Nat) : State :=
  match r with
  | (s, none) => s.advanceI count
  | (s, some a) => s.outOfRange i a

/-- `BlockStore(lo, hi)` (R184) in the instruction `i`. -/
def State.blockStore (s : State) (i : Instr) (lo hi : RegNo) : State :=
  finishBlock i (regRange lo hi).length (storeRun (s.dataAddr 0) ((regRange lo hi).map s.reg) s)

/-- `BlockRecall(lo, hi)` (R186) in the instruction `i`. -/
def State.blockRecall (s : State) (i : Instr) (lo hi : RegNo) : State :=
  finishBlock i (regRange lo hi).length (loadRun (s.dataAddr 0) (regRange lo hi) s)

/-- `LD B,Vx` (R183). -/
def execLdBVx (x : RegNo) (s : State) : Host.Outcome State Fault Refusal :=
  .next (finishBlock (.ldBVx x) 3 (storeRun (s.dataAddr 0) (bcdDigits (s.reg x)) s))

/-- `LD [I],Vx` (R185). -/
def execLdMemVx (x : RegNo) (s : State) : Host.Outcome State Fault Refusal :=
  .next (s.blockStore (.ldMemVx x) 0 x)

/-- `LD Vx,[I]` (R187). -/
def execLdVxMem (x : RegNo) (s : State) : Host.Outcome State Fault Refusal :=
  .next (s.blockRecall (.ldVxMem x) 0 x)

end Sys2Proof.Machine
end

