-- ==== Sys2Proof/Machine/Stop.lean ====
section
/-! DEFINITION. The meaning of the stop instruction (spec 47_execution_engine.md R249). -/

namespace Sys2Proof.Machine

/-- `EXIT Vx` (R249): a normal halt whose record carries `V[X]`. -/
def execExitVx (x : RegNo) (s : State) : Host.Outcome State Fault Refusal :=
  .next (s.haltIn (.exitVx x) .exit 0 (s.reg x))

end Sys2Proof.Machine
end

