-- ==== Sys2Proof/Machine/Timer.lean ====
section
/-! DEFINITION. The timer subsystem (spec 45_timer.md): the tick (R215), which is no instruction, and the three
instructions that touch the counters (R216 to R218). -/

namespace Sys2Proof.Machine

/-- A counter's `tick()`: "decrement toward zero, no-op at zero" (R215). -/
def countDown (c : Byte) : Byte := if c = 0 then 0 else c - 1

/-- The stop request of a tick: when the sound counter "reaches zero from a non-zero value" (R215). -/
def stopRequests (st : Byte) : List Request := if st ≠ 0 ∧ countDown st = 0 then [.stopTone] else []

/-- `Tick()` (R215): both counters while running, nothing when halted. -/
def tick (s : State) : State :=
  match s.run with
  | .running =>
    { s with dt := countDown s.dt, st := countDown s.st, requests := s.requests ++ stopRequests s.st }
  | .halted => s

/-- `LD Vx,DT` (R216). -/
def execLdVxDt (x : RegNo) (s : State) : Host.Outcome State Fault Refusal :=
  .next (s.setReg x s.dt)

/-- `LD DT,Vx` (R217). -/
def execLdDtVx (x : RegNo) (s : State) : Host.Outcome State Fault Refusal :=
  .next { s with dt := s.reg x }

/-- `LD ST,Vx` (R218): the tone request goes out on every execution. -/
def execLdStVx (x : RegNo) (s : State) : Host.Outcome State Fault Refusal :=
  .next (({ s with st := s.reg x }).request (.startTone (s.reg x)))

end Sys2Proof.Machine
end

