-- ==== Sys2Proof/Machine/Reset.lean ====
section
/-! DEFINITION. Reset with a program image (spec 70_reset_and_hazards.md R300 to R302). -/

namespace Sys2Proof.Machine

/-- `Load`'s copy (R301): the bytes go to ascending addresses from `a` in sequence order. -/
def Memory.load (c : Config) (a : Nat) : List Byte → Memory → Memory
  | [], m => m
  | b :: bs, m => Memory.load c (a + 1) bs (Memory.write c m a b)

/-- The core after reset, before the load's outcome is known (R300; 10_state.md R53): the registers cleared, memory as
`MEM_INIT` and the font table, `QCFG` latched. The parameters and the port fields stay: reset issues no request. -/
def State.clearCore (s : State) (q : QCfg) : State :=
  { s with
    v := Vector.replicate 16 0, idx := 0, pc := BitVec.ofNat 16 s.cfg.loadAddr
    stack := Vector.replicate 16 0, sp := 0, mem := [], dt := 0, st := 0
    run := .running, halt := HaltRecord.zero, progEnd := BitVec.ofNat 17 s.cfg.loadAddr, qcfg := q }

/-- `Reset(QCFG, PROG, PROG_LEN)` (R300): with a program that fits, running (R301); with one that does not, halted
with `ProgramTooLarge` and no byte of it in memory (R302). -/
def State.resetWith (s : State) (q : QCfg) (prog : List Byte) : State :=
  let c := s.clearCore q
  if prog.length ≤ s.cfg.memSize - s.cfg.loadAddr then
    { c with
      mem := Memory.load s.cfg s.cfg.loadAddr prog []
      progEnd := BitVec.ofNat 17 (s.cfg.loadAddr + prog.length) }
  else { c with run := .halted, halt := { HaltRecord.zero with cause := .programTooLarge } }

end Sys2Proof.Machine
end

