-- ==== Sys2Proof/Machine/Engine.lean ====
section
/-! DEFINITION. The execution engine (spec 47_execution_engine.md): the fetch (R247), one instruction step (R246), the
halt on an undefined opcode (R250); the transitions of the agents (R253); and the placing of a word where the next step
fetches (log 24). -/

namespace Sys2Proof.Machine

/-- What `Fetch(pc0)` gives (R247): a word, or the halted state. `PC` is not advanced by a halt. -/
inductive Fetched where
  | word (w : Word)
  | halted (s : State)
  deriving DecidableEq, Repr

/-- `Fetch(pc0)` with `pc0 = PC` (R247): end of program first, then the bound of memory (60_exceptions.md R281a). -/
def fetch (s : State) : Fetched :=
  if s.progEnd.toNat ≤ s.pc.toNat then .halted (s.haltAt .endOfProgram s.pc 0 0 0)
  else
    match s.readWord s.pc.toNat with
    | none => .halted (s.haltAt .outOfRange s.pc 0 (s.pc.toNat + 1) 0)
    | some w => .word w

/-- `Execute(w, pc0)` (R248): the instruction of the word, or the halt on an undefined opcode (R250), in a state whose
`PC` is `pc0 + 2`. -/
def execWord (w : Word) (s : State) : Host.Outcome State Fault Refusal :=
  match decode w with
  | .ok i => exec i s
  | .error _ => .next (s.haltAt .undefinedOpcode (s.pc - 2) w 0 0)

/-- `Step()` (R246); nothing when halted (R252). -/
def engineStep (s : State) : Host.Outcome State Fault Refusal :=
  match s.run with
  | .halted => .next s
  | .running =>
    match fetch s with
    | .halted t => .next t
    | .word w => execWord w { s with pc := s.pc + 2 }

/-- One transition (R253): a step of the engine (R246), of the timer subsystem (45_timer.md R215) or of the environment
(46_input.md R230), or a reset (70_reset_and_hazards.md R300). -/
def applyEvent (e : Event) (s : State) : Host.Outcome State Fault Refusal :=
  match e with
  | .step => engineStep s
  | .tick => .next (tick s)
  | .key k => .next { s with key := k }
  | .reset q prog => .next (s.resetWith q prog)

/-- `s` with the bytes of an instruction at `PC`, inside the loaded image, running, with a `Step()` due, so that the very
next step runs it (log 24). -/
def State.placeWord (s : State) (bytes : List Byte) : State :=
  { s with
    mem := Memory.load s.cfg s.pc.toNat bytes s.mem
    progEnd := BitVec.ofNat 17 (max s.progEnd.toNat (s.pc.toNat + 2))
    run := .running
    events := .step :: s.events }

end Sys2Proof.Machine
end

