-- ==== Sys2Proof/Machine/Schedule.lean ====
section
/-! DEFINITION. Which transition comes next, as data in the state (spec 47_execution_engine.md R253; log 8). -/

namespace Sys2Proof.Machine

/-- The event in a session, which has no reset in it (00_scope.md R8); a `Step()` stands in for one. -/
def Event.inSession : Event → Event
  | .step => .step
  | .tick => .tick
  | .key k => .key k
  | .reset _ _ => .step

/-- The transition that comes next. -/
def Later.event : Later → Event
  | .cycle e _ => e
  | .session n => (Config.freeEvent n).inSession
  | .free n => Config.freeEvent n

/-- What comes after that transition. -/
def Later.next : Later → Later
  | .cycle e [] => .cycle e []
  | .cycle e (e' :: rest) => .cycle e' (rest ++ [e])
  | .session n => .session (n + 1)
  | .free n => .free (n + 1)

/-- The transition that is due. -/
def State.due (s : State) : Event :=
  match s.events with
  | [] => s.later.event
  | e :: _ => e

/-- The schedule moved on by one transition, nothing else changed. -/
def State.popDue (s : State) : State :=
  { s with
    events := s.events.tail
    later := match s.events with
      | [] => s.later.next
      | _ :: _ => s.later }

end Sys2Proof.Machine
end

