-- ==== Sys2Proof/Machine/Step.lean ====
section
/-! DEFINITION. One step of the machine: the transition that is due (spec 47_execution_engine.md R253; log 8). -/

namespace Sys2Proof.Machine

/-- One atomic transition of one agent, the one that is due. -/
def step (s : State) : Host.Outcome State Fault Refusal := applyEvent s.due s.popDue

/-- `s` with the instruction whose bits are `w`, numbered as spec/opcode_table.json numbers them, where the next step
fetches (log 24). -/
def State.withFetchWord (s : State) (nbits w : Nat) : State := s.placeWord (tableBytes nbits w)

end Sys2Proof.Machine
end

