-- ==== Sys2Proof/Machine/Surface.lean ====
section
/-! DEFINITION. The pixel surface as a parameter (spec 44_draw.md R202): a claim that names a surface says that the
answers in `State.plotIn` are the ones this surface gives. No meaning uses this file; `Surface.reference` (R205) binds no
statement that does not name it. -/

namespace Sys2Proof.Machine

/-- A surface: the two calls of R202 on a state type `σ`. -/
structure Surface (σ : Type) where
  plotXor : σ → Nat → Nat → σ × Bool
  clear : σ → σ

/-- The answers a surface gives to a sequence of requests, and its state after them. -/
def Surface.replay {σ : Type} (p : Surface σ) : σ → List Request → σ × List Bool
  | g, [] => (g, [])
  | g, .plotXor x y :: rs =>
    let (g', was) := p.plotXor g x y
    let (g'', answers) := p.replay g' rs
    (g'', was :: answers)
  | g, .clear :: rs => p.replay (p.clear g) rs
  | g, .redraw :: rs => p.replay g rs
  | g, .startTone _ :: rs => p.replay g rs
  | g, .stopTone :: rs => p.replay g rs

/-- The reference surface of R205: 64 columns by 32 rows, coordinates reduced; its state is the list of the pixels
that are on. -/
def Surface.reference : Surface (List (Nat × Nat)) where
  plotXor := fun g x y =>
    if (x % 64, y % 32) ∈ g then (g.filter (fun p => p ≠ (x % 64, y % 32)), true)
    else ((x % 64, y % 32) :: g, false)
  clear := fun _ => []

end Sys2Proof.Machine
end

