-- ==== Sys2Proof/WellFormed.lean ====
section
/-! DEFINITION. Which instructions a machine has. Every operand fits its encoding field by its type (30_encoding.md
R101, R104), so one check is left: group 0xC is an instruction only when `P_ADMIT_RND` is set (R107, 42_alu.md
R163). -/

namespace Sys2Proof

/-- `i` is an instruction of a machine whose configuration is `q`; the only row that depends on it is `RND`. -/
def Instr.wellFormed (q : QCfg) (i : Instr) : Bool :=
  match i with
  | .rnd _ _ => q.admitRnd
  | .cls | .ret | .jp _ | .call _ | .seVxKk _ _ | .sneVxKk _ _ | .seVxVy _ _ | .ldVxKk _ _ | .addVxKk _ _
  | .ldVxVy _ _ | .orVxVy _ _ | .andVxVy _ _ | .xorVxVy _ _ | .addVxVy _ _ | .subVxVy _ _ | .shrVxVy _ _
  | .subnVxVy _ _ | .shlVxVy _ _ | .sneVxVy _ _ | .ldI _ | .jpV0 _ | .drw _ _ _ | .skp _ | .sknp _ | .exitVx _
  | .ldVxDt _ | .ldVxK _ | .ldDtVx _ | .ldStVx _ | .addIVx _ | .ldFVx _ | .ldBVx _ | .ldMemVx _ | .ldVxMem _ => true

end Sys2Proof
end

