-- ==== Sys2Proof/Safety.lean ====
section
/-! DEFINITION. The terms in which claims are made: the invariant of the machine (spec 10_state.md R36, R37, R43, R44;
20_memory.md R70), what kind of end a halt is (47_execution_engine.md R255; 60_exceptions.md R270), what a halt leaves
(R251), and the closed forms of a draw's requests and answers (44_draw.md R201, R202). -/

namespace Sys2Proof.Machine

/-! ## Invariant and ends of a run -/

/-- What holds of every state a session reaches. -/
structure Inv (s : State) : Prop where
  /-- The parameters meet R6's constraints. -/
  cfg_wf : s.cfg.wf = true
  /-- Memory is in canonical form, below `MEM_SIZE`. -/
  mem_wf : Memory.wf s.cfg s.mem = true
  /-- `PROG_START <= PC <= MEM_SIZE` (R36). -/
  pc_low : s.cfg.loadAddr ≤ s.pc.toNat
  pc_high : s.pc.toNat ≤ s.cfg.memSize
  /-- The loaded image lies in memory (70_reset_and_hazards.md R301). -/
  end_low : s.cfg.loadAddr ≤ s.progEnd.toNat
  end_high : s.progEnd.toNat ≤ s.cfg.memSize
  /-- Every live stack entry is a return address: `PROG_START + 2 .. MEM_SIZE` (41_control_flow.md R133). -/
  stack_live : ∀ k (h : k < 16), k < s.sp.val →
    s.cfg.loadAddr + 2 ≤ (s.stack[k]).toNat ∧ (s.stack[k]).toNat ≤ s.cfg.memSize
  /-- The halt record is zero while running, and names a cause when halted (R44). -/
  record_running : s.run = .running → s.halt = HaltRecord.zero
  record_halted : s.run = .halted → s.halt.cause ≠ .none

/-- The causes that end a run successfully (R255). -/
def Cause.isSuccess : Cause → Bool
  | .exit | .endOfProgram => true
  | .none | .keyCancel | .undefinedOpcode | .outOfRange | .stackOverflow | .stackUnderflow | .programTooLarge => false

/-- The causes that are errors (R270, column "kind"). -/
def Cause.isError : Cause → Bool
  | .undefinedOpcode | .outOfRange | .stackOverflow | .stackUnderflow | .programTooLarge => true
  | .none | .endOfProgram | .exit | .keyCancel => false

/-- A safe run never reaches a state that has halted with an error. -/
def State.safe (s : State) : Bool := !(decide (s.run = .halted) && s.halt.cause.isError)

/-! ## Forms of an instruction's effect -/

/-- `t` is `s` halted with this record and nothing else changed (R251). -/
def HaltedFrom (s t : State) (k : Cause) (pc0 w : Word) (addr : Nat) (exitCode : Byte) : Prop :=
  t = { s with
        run := .halted
        halt := { cause := k, pc := pc0, word := w, addr := BitVec.ofNat 17 addr, exit := exitCode } }

/-- Every byte of memory reads the same. -/
def SameBytes (s t : State) : Prop := ∀ a, t.byteAt a = s.byteAt a

/-- `i` completes with `value` in `V[x]`, every other register, every other field and every byte of memory as before. -/
def WritesReg (i : Instr) (x : RegNo) (value : Byte) (s : State) : Prop :=
  ∃ t, exec i s = .next t ∧ (∀ j, t.reg j = if j = x then value else s.reg j) ∧
    t = { s with v := t.v } ∧ SameBytes s t

/-- `i` completes with `value` in `V[x]` and then `flag` in `VF`, every other register, every other field and every
byte of memory as before. -/
def WritesRegAndFlag (i : Instr) (x : RegNo) (value flag : Byte) (s : State) : Prop :=
  ∃ t, exec i s = .next t ∧ (∀ j, t.reg j = if j = 15 then flag else if j = x then value else s.reg j) ∧
    t = { s with v := t.v } ∧ SameBytes s t

/-- `i` completes with `PC = a` if `a` is in the executable region and halts with `OutOfRange(a)` otherwise; nothing
else changes (41_control_flow.md R130, R131). -/
def JumpsTo (i : Instr) (a : Nat) (s : State) : Prop :=
  (s.cfg.loadAddr ≤ a ∧ a < s.cfg.memSize → exec i s = .next { s with pc := BitVec.ofNat 16 a }) ∧
  (¬(s.cfg.loadAddr ≤ a ∧ a < s.cfg.memSize) →
    ∃ t, exec i s = .next t ∧ HaltedFrom s t .outOfRange (s.pc - 2) (encode i) a 0)

/-- `i` completes changing nothing when `c` fails, and jumps over one instruction when it holds
(41_control_flow.md R134). -/
def SkipsIf (i : Instr) (c : Prop) (s : State) : Prop :=
  (¬c → exec i s = .next s) ∧ (c → JumpsTo i (s.pc.toNat + 2) s)

/-- `i` completes after storing `bytes` at `I`, `I + 1`, ..: every stored byte below `MEM_SIZE` is in memory, every
byte of memory outside them is as before, and either all were in range and `I` advances unless `Q_KEEP_I`, or the first
address out of range halts it with `I` unchanged (43_memory_block.md R183, R184, R188). -/
def StoresBlock (i : Instr) (bytes : List Byte) (s : State) : Prop :=
  ∃ t, exec i s = .next t ∧
    (∀ k (h : k < bytes.length), s.idx.toNat + k < s.cfg.memSize → t.byteAt (s.idx.toNat + k) = bytes[k]) ∧
    (∀ a, ¬(s.idx.toNat ≤ a ∧ a < s.idx.toNat + bytes.length ∧ a < s.cfg.memSize) → t.byteAt a = s.byteAt a) ∧
    ((∀ k, k < bytes.length → s.idx.toNat + k < s.cfg.memSize) →
      t = { s with
            mem := t.mem
            idx := if s.qcfg.keepI then s.idx else BitVec.ofNat 16 (s.idx.toNat + bytes.length) }) ∧
    (∀ k, k < bytes.length → s.cfg.memSize ≤ s.idx.toNat + k → (∀ j, j < k → s.idx.toNat + j < s.cfg.memSize) →
      HaltedFrom { s with mem := t.mem } t .outOfRange (s.pc - 2) (encode i) (s.idx.toNat + k) 0)

/-! ## Closed forms of a draw -/

/-- The requests for one sprite row `b` at `(x0, y)`: one for each set bit, leftmost (bit 7) first (R201). -/
def rowRequests (x0 y : Nat) (b : Byte) : List Request :=
  (List.range 8).filterMap fun c => if b.getLsbD (7 - c) then some (.plotXor (x0 + c) y) else none

/-- The requests for the first `n` rows of the sprite at `I`, drawn at `(x0, y0)`, top row first (R201). -/
def State.spriteRequests (s : State) (x0 y0 n : Nat) : List Request :=
  (List.range n).flatMap fun r => rowRequests x0 (y0 + r) (s.byteAt (s.idx.toNat + r))

/-- The surface's answer to the `k`-th coming request: from `plotIn`, then free values (R202; log 10). -/
def State.answer (s : State) (k : Nat) : Bool :=
  if h : k < s.plotIn.length then s.plotIn[k] else Config.freeAnswer (s.free + (k - s.plotIn.length))

/-- After `n` answers the port fields have moved on by `n`. -/
def State.afterAnswers (s : State) (n : Nat) : State :=
  { s with plotIn := s.plotIn.drop n, free := s.free + (n - s.plotIn.length) }

/-- `t` is `s` after drawing the first `n` rows: their requests issued, `VF` 1 if one of the answers was "already set"
and 0 otherwise, every other register, field and byte of memory as before (R201). -/
def DrewRows (s t : State) (x0 y0 n : Nat) : Prop :=
  (∀ j, j ≠ 15 → t.reg j = s.reg j) ∧
  t.reg 15 = (if ∃ k, k < (s.spriteRequests x0 y0 n).length ∧ s.answer k = true then 1 else 0) ∧
  t = { s.afterAnswers (s.spriteRequests x0 y0 n).length with
        v := t.v, requests := s.requests ++ s.spriteRequests x0 y0 n } ∧
  SameBytes s t

end Sys2Proof.Machine
end

