-- ==== Sys2Proof/Certificates/Slice0/Obligations.lean ====
section
/-! DEFINITION. The statements for the provers, from the numbered rules of spec/. Where a statement speaks of a
record `HALT.pc` inside `exec`, it is `PC - 2`, since `PC = pc0 + 2` on entry to an instruction (00_scope.md R14). -/

open Sys2Proof Sys2Proof.Machine

/-! ## Encoding -/

/-- R102: the fields of every word compose to the word. -/
def Obligations.FieldsComposeTheWord : Prop :=
  ∀ w : Word,
    (fieldG w ++ fieldX w ++ fieldY w ++ fieldN w : Word) = w ∧
    (fieldHI w ++ fieldKK w : Word) = w ∧
    (fieldG w ++ fieldNNN w : Word) = w

/-- Decoding the encoding of any instruction gives it back, every operand at every value.
The opcode numbers are the spec's general knowledge, its decision D14 (log 18). -/
def Obligations.DecodeOfEncodeIsTheInstruction : Prop :=
  ∀ i : Instr, decode (encode i) = .ok i ∧ ∀ rest, decodeBytes (encodeBytes i ++ rest) = .ok (i, rest)

/-- A decoded word is the encoding of its instruction, so each word has one meaning and the halt record's word is the
word that was fetched.
That the halt record's word is recomputed so is the model's (log 14). -/
def Obligations.EncodeOfDecodeIsTheWord : Prop :=
  ∀ (w : Word) (i : Instr), decode w = .ok i → encode i = w

/-- The decoder agrees with the opcode map of R105: a word decodes to an instruction of a row exactly when
`w & mask = match` for that row.
The map is the spec's decision D14 (log 18); group 0xC always decodes (log 15). -/
def Obligations.DecoderFollowsTheOpcodeMap : Prop :=
  ∀ (w : Word) (j : Instr),
    w &&& j.opRow.mask = j.opRow.pat ↔ ∃ i, decode w = .ok i ∧ i.opRow = j.opRow

/-- R107's table: these words, and no others, are undefined in a machine configured `q`.
The strict reading is the spec's decision D15 (log 18). -/
def Obligations.UndefinedWordsAreExactlyTheTable : Prop :=
  ∀ (q : QCfg) (w : Word),
    (¬∃ i, decode w = .ok i ∧ i.wellFormed q = true) ↔
      (fieldG w = 0x0 ∧ w ≠ 0x00E0 ∧ w ≠ 0x00EE) ∨
      (fieldG w = 0x5 ∧ fieldN w ≠ 0) ∨
      (fieldG w = 0x8 ∧ fieldN w ∈ [0x8, 0x9, 0xA, 0xB, 0xC, 0xD, 0xF]) ∨
      (fieldG w = 0x9 ∧ fieldN w ≠ 0) ∨
      (fieldG w = 0xC ∧ q.admitRnd = false) ∨
      (fieldG w = 0xE ∧ fieldKK w ≠ 0x9E ∧ fieldKK w ≠ 0xA1) ∨
      (fieldG w = 0xF ∧ fieldKK w ∉ [0x00, 0x07, 0x0A, 0x15, 0x18, 0x1E, 0x29, 0x33, 0x55, 0x65])

/-- Words of R105's table and of 95_test_vectors.md (S7; E1, E3, E4, E6 to E9, E11; K5; programs P2, P4) decode to the
instructions named there, and two words of R107's table are undefined.
All but the first three are the spec's decisions D14, D15 (log 18). -/
def Obligations.SampleWordsDecode : Prop :=
  decode 0x6005 = .ok (.ldVxKk 0 5) ∧ decode 0x7003 = .ok (.addVxKk 0 3) ∧ decode 0xF000 = .ok (.exitVx 0) ∧
  decode 0x8AB4 = .ok (.addVxVy 0xA 0xB) ∧ decode 0x00E0 = .ok .cls ∧ decode 0x00EE = .ok .ret ∧
  decode 0x5120 = .ok (.seVxVy 1 2) ∧ decode 0x9120 = .ok (.sneVxVy 1 2) ∧ decode 0x812E = .ok (.shlVxVy 1 2) ∧
  decode 0xE1A1 = .ok (.sknp 1) ∧ decode 0xF165 = .ok (.ldVxMem 1) ∧ decode 0xD015 = .ok (.drw 0 1 5) ∧
  decode 0x2210 = .ok (.call 0x210) ∧ decode 0xF00A = .ok (.ldVxK 0) ∧
  decode 0x0000 = .error (.undefinedOpcode 0x0000) ∧ decode 0x5121 = .error (.undefinedOpcode 0x5121)

/-! ## The step -/

/-- R246, R248: when a `Step()` is due, `PC` is before `PROG_END` and the two bytes at `PC` are in memory and decode to an
instruction, the step is that instruction's effect, with `PC` moved past it.
`due` and `popDue`, the schedule of transitions moved on by one, are the model's (log 8). -/
def Obligations.StepRunsTheDecodedInstruction : Prop :=
  ∀ (s : State) (i : Instr), s.due = .step →
    s.run = .running → s.pc.toNat < s.progEnd.toNat → s.pc.toNat + 1 < s.cfg.memSize →
    decodeBytes [s.byteAt s.pc.toNat, s.byteAt (s.pc.toNat + 1)] = .ok (i, []) →
    step s = exec i { s.popDue with pc := s.pc + 2 }

/-- R253: each agent takes its own atomic step, in the order of the schedule: the engine's `Step()`, the timer
subsystem's `Tick()`, the environment's change of the key latch; and a reset is a transition of its own (R300).
The schedule is the model's (log 8). -/
def Obligations.EachAgentTakesItsOwnStep : Prop :=
  ∀ (s : State) (rest : List Event),
    step { s with events := .step :: rest } = engineStep { s with events := rest } ∧
    step { s with events := .tick :: rest } = .next { tick s with events := rest } ∧
    (∀ k, step { s with events := .key k :: rest } = .next { s with key := k, events := rest }) ∧
    ∀ q prog, step { s with events := .reset q prog :: rest } = .next { s.resetWith q prog with events := rest }

/-- R247 with R75: a running step at or past `PROG_END` halts with `EndOfProgram`; otherwise a fetch whose second byte
is past memory halts with `OutOfRange`; otherwise the word's high byte is the byte at `PC`. Neither halt moves `PC`.
When the end is tested and the second byte's halt are the spec's decisions D9, D10 (log 17); `popDue`, the schedule
of transitions moved on by one, is the model's (log 8). -/
def Obligations.FetchHaltsOrReadsTheWord : Prop :=
  ∀ s : State, s.run = .running → s.due = .step →
    (s.progEnd.toNat ≤ s.pc.toNat →
      ∃ t, step s = .next t ∧ HaltedFrom s.popDue t .endOfProgram s.pc 0 0 0) ∧
    (s.pc.toNat < s.progEnd.toNat → s.cfg.memSize ≤ s.pc.toNat + 1 →
      ∃ t, step s = .next t ∧ HaltedFrom s.popDue t .outOfRange s.pc 0 (s.pc.toNat + 1) 0) ∧
    (s.pc.toNat < s.progEnd.toNat → s.pc.toNat + 1 < s.cfg.memSize →
      step s = execWord (s.byteAt s.pc.toNat ++ s.byteAt (s.pc.toNat + 1)) { s.popDue with pc := s.pc + 2 })

/-- R250, R271: a fetched word that is undefined, group 0xC included where it is not admitted, halts with
`UndefinedOpcode`, the word and its address; only `PC`, `RUN` and `HALT` change.
Which words and where `PC` stays are the spec's decisions D15, D11 (log 15, 17, 18); `popDue`, the schedule of
transitions moved on by one, is the model's (log 8). -/
def Obligations.UndefinedWordHaltsTheStep : Prop :=
  ∀ (s : State) (w : Word), s.run = .running → s.due = .step → s.pc.toNat < s.progEnd.toNat →
    s.readWord s.pc.toNat = some w → (¬∃ i, decode w = .ok i ∧ i.wellFormed s.qcfg = true) →
    ∃ t, step s = .next t ∧ HaltedFrom { s.popDue with pc := s.pc + 2 } t .undefinedOpcode s.pc w 0 0

/-- R252: a `Step()` in `Halted` changes nothing and issues no request; and of all transitions, ticks and key changes
included, only a reset leaves `Halted`. -/
def Obligations.HaltedIsTerminal : Prop :=
  ∀ s : State, s.run = .halted →
    engineStep s = .next s ∧
    ((∀ q prog, s.due ≠ .reset q prog) →
      ∃ t, step s = .next t ∧ t.run = .halted)

/-- The halted state is frozen: of the transitions but reset only a key change changes anything in `Halted`, the latch;
the schedule, the model's own (log 8), moves on. That a tick does nothing in `Halted` is the spec's decision D33
(log 20). -/
def Obligations.HaltedStateIsFrozen : Prop :=
  ∀ s : State, s.run = .halted →
    (∀ q prog, s.due ≠ .reset q prog) →
    ∃ t, step s = .next t ∧ t = { s.popDue with key := t.key }

/-- R256, R251: every step answers a next state; the machine never faults or refuses, a halt is a state.
That a halt is a next state is the model's form (log 13). -/
def Obligations.EveryStepAnswersANextState : Prop :=
  ∀ s : State, ∃ t, step s = .next t

/-- A halt is precise (R282): when a running step halts, the record holds the address of its instruction and the word
fetched there (0 where none was fetched), a cause, which is never a failed load, and 0 in every field that the cause
does not use. The layout of the record is the spec's decision D36, `PC` after a halt its decision D11 (log 14, 17). -/
def Obligations.HaltRecordNamesTheInstruction : Prop :=
  ∀ s t : State, s.due = .step → s.run = .running → step s = .next t → t.run = .halted →
    t.halt.pc = s.pc ∧ t.halt.cause ≠ .none ∧ t.halt.cause ≠ .programTooLarge ∧
    (t.halt.cause ≠ .outOfRange → t.halt.cause ≠ .stackOverflow → t.halt.addr = 0) ∧
    (t.halt.cause ≠ .exit → t.halt.exit = 0) ∧
    ((t.pc = s.pc ∧ t.halt.word = 0 ∧ (t.halt.cause = .endOfProgram ∨ t.halt.cause = .outOfRange)) ∨
     (t.pc = s.pc + 2 ∧ s.readWord s.pc.toNat = some t.halt.word ∧ t.halt.cause ≠ .endOfProgram))

/-- R270, R44: the numbers of the causes, 0 to 8.
The numbers are the spec's decision D36 (log 18). -/
def Obligations.CauseCodes : Prop :=
  Cause.code .none = 0 ∧ Cause.code .endOfProgram = 1 ∧ Cause.code .exit = 2 ∧ Cause.code .keyCancel = 3 ∧
  Cause.code .undefinedOpcode = 4 ∧ Cause.code .outOfRange = 5 ∧ Cause.code .stackOverflow = 6 ∧
  Cause.code .stackUnderflow = 7 ∧ Cause.code .programTooLarge = 8 ∧
  ∀ a b : Cause, a.code = b.code → a = b

/-- R249: `EXIT Vx` halts with cause `Exit` and `V[X]` as the exit code; no other state changes. What else the record
holds is HaltRecordNamesTheInstruction's matter. -/
def Obligations.ExitHaltsWithTheRegister : Prop :=
  ∀ (x : RegNo) (s : State),
    encode (.exitVx x) = (0xF#4 ++ x ++ 0x00#8 : Word) ∧
    ∃ t, exec (.exitVx x) s = .next t ∧ t.run = .halted ∧ t.halt.cause = .exit ∧ t.halt.exit = s.reg x ∧
      t = { s with run := .halted, halt := t.halt } ∧ SameBytes s t

/-! ## Control flow -/

/-- R131, R135 (with R130): `JP nnn`.
`PC` after the halt is the spec's decision D11, the record D36, the number D14 (log 14, 17, 18). -/
def Obligations.JumpStaysInTheRegion : Prop :=
  ∀ (nnn : Addr12) (s : State),
    encode (.jp nnn) = (0x1#4 ++ nnn : Word) ∧ JumpsTo (.jp nnn) nnn.toNat s

/-- R144, R142: `JP V0,nnn` jumps to the unreduced sum.
The base register and the unreduced sum are the spec's decision D21, `PC` after the halt D11 (log 17, 18). -/
def Obligations.IndirectJumpAddsV0 : Prop :=
  ∀ (nnn : Addr12) (s : State),
    encode (.jpV0 nnn) = (0xB#4 ++ nnn : Word) ∧ JumpsTo (.jpV0 nnn) ((s.reg 0).toNat + nnn.toNat) s

/-- R132, R136: `CALL nnn` pushes the return address and jumps; on a full stack it halts with `StackOverflow`, then on
a target outside the region with `OutOfRange`, and neither changes `STACK`, `SP` or `PC`.
The order of the two checks is the spec's decision D12, `PC` after a halt D11 (log 17, 18). -/
def Obligations.CallPushesOrHalts : Prop :=
  ∀ (nnn : Addr12) (s : State),
    encode (.call nnn) = (0x2#4 ++ nnn : Word) ∧
    (s.sp.val = 16 →
      ∃ t, exec (.call nnn) s = .next t ∧
        HaltedFrom s t .stackOverflow (s.pc - 2) (encode (.call nnn)) nnn.toNat 0) ∧
    (s.sp.val < 16 → ¬(s.cfg.loadAddr ≤ nnn.toNat ∧ nnn.toNat < s.cfg.memSize) →
      ∃ t, exec (.call nnn) s = .next t ∧
        HaltedFrom s t .outOfRange (s.pc - 2) (encode (.call nnn)) nnn.toNat 0) ∧
    (s.sp.val < 16 → s.cfg.loadAddr ≤ nnn.toNat → nnn.toNat < s.cfg.memSize →
      ∃ t, exec (.call nnn) s = .next t ∧ t.sp.val = s.sp.val + 1 ∧ t.pc = nnn.setWidth 16 ∧
        (∀ k (h : k < 16), t.stack[k] = if k = s.sp.val then s.pc else s.stack[k]) ∧
        t = { s with stack := t.stack, sp := t.sp, pc := t.pc } ∧ SameBytes s t)

/-- R133, R137: `RET` pops the top entry, unchecked; on an empty stack it halts with `StackUnderflow`.
That the popped address is unchecked is the spec's decision D13 (log 18). -/
def Obligations.ReturnPopsOrHalts : Prop :=
  ∀ s : State,
    encode .ret = 0x00EE ∧
    (s.sp.val = 0 →
      ∃ t, exec .ret s = .next t ∧ HaltedFrom s t .stackUnderflow (s.pc - 2) (encode .ret) 0 0) ∧
    (∀ k (h : k < 16), s.sp.val = k + 1 →
      ∃ t, exec .ret s = .next t ∧ t.sp.val = k ∧ t.pc = s.stack[k] ∧
        t = { s with sp := t.sp, pc := t.pc } ∧ SameBytes s t)

/-- For R143: `callAll` runs one `CALL` for
each pair of the address after it and its target; `returnAll` runs `RET`s and collects where each one goes. -/
def callAll : List (Word × Addr12) → State → Option State
  | [], s => some s
  | (ra, nnn) :: cs, s =>
    match exec (.call nnn) { s with pc := ra } with
    | .next t => if t.run = .running then callAll cs t else none
    | _ => none

/-- See `callAll`. -/
def returnAll : Nat → State → Option (List Word)
  | 0, _ => some []
  | n + 1, s =>
    match exec .ret s with
    | .next t => if t.run = .running then (returnAll n t).map (t.pc :: ·) else none
    | _ => none

/-- R143: addresses pushed up to capacity are popped in exact reverse order, and on a full stack the call fails with
`StackOverflow` and leaves the stack alone.
That it fails so whatever its target, one outside the region included, is R132's order of checks, the spec's decision
D12 (log 18). -/
def Obligations.CallsAreReturnedInReverse : Prop :=
  (∀ (cs : List (Word × Addr12)) (s : State), s.run = .running → s.sp.val + cs.length ≤ 16 →
    (∀ c, c ∈ cs → s.cfg.loadAddr ≤ c.2.toNat ∧ c.2.toNat < s.cfg.memSize) →
    ∃ t, callAll cs s = some t ∧ t.sp.val = s.sp.val + cs.length ∧
      returnAll cs.length t = some (cs.map (·.1)).reverse) ∧
  ∀ (nnn : Addr12) (s : State), s.sp.val = 16 →
    ∃ t, exec (.call nnn) s = .next t ∧ t.run = .halted ∧ t.halt.cause = .stackOverflow ∧ t.stack = s.stack ∧
      t.sp = s.sp

/-- R37: only `CALL` pushes and only `RET` pops.
The case of a failing call and return is R132's and R133's (log 18). -/
def Obligations.OnlyCallAndReturnMoveTheStack : Prop :=
  ∀ (i : Instr) (s t : State), exec i s = .next t →
    match i with
    | .call _ => t.sp.val = s.sp.val + 1 ∨ (t.sp = s.sp ∧ t.stack = s.stack)
    | .ret => t.stack = s.stack ∧ (t.sp = s.sp ∨ t.sp.val + 1 = s.sp.val)
    | _ => t.stack = s.stack ∧ t.sp = s.sp

/-- R35: an instruction that neither jumps, calls, returns, skips nor waits for a key leaves `PC` at `pc0 + 2`.
`PC` after a halt is the spec's decision D11 (log 17). -/
def Obligations.OnlyControlFlowMovesThePC : Prop :=
  ∀ (i : Instr) (s t : State), exec i s = .next t →
    match i with
    | .jp _ | .call _ | .ret | .jpV0 _ | .ldVxK _ => True
    | .seVxKk _ _ | .sneVxKk _ _ | .seVxVy _ _ | .sneVxVy _ _ | .skp _ | .sknp _ =>
      t.pc = s.pc ∨ t.pc = s.pc + 2
    | _ => t.pc = s.pc

/-- R134, R138 to R141: the four compare-and-skip instructions.
The four comparisons are the spec's general knowledge GK7, `PC` after the halt is D11 (log 17, 18). -/
def Obligations.SkipsJumpOverOneInstruction : Prop :=
  ∀ (x y : RegNo) (kk : Byte) (s : State),
    (encode (.seVxKk x kk) = (0x3#4 ++ x ++ kk : Word) ∧ SkipsIf (.seVxKk x kk) (s.reg x = kk) s) ∧
    (encode (.sneVxKk x kk) = (0x4#4 ++ x ++ kk : Word) ∧ SkipsIf (.sneVxKk x kk) (s.reg x ≠ kk) s) ∧
    (encode (.seVxVy x y) = (0x5#4 ++ x ++ y ++ 0x0#4 : Word) ∧ SkipsIf (.seVxVy x y) (s.reg x = s.reg y) s) ∧
    (encode (.sneVxVy x y) = (0x9#4 ++ x ++ y ++ 0x0#4 : Word) ∧ SkipsIf (.sneVxVy x y) (s.reg x ≠ s.reg y) s)

/-! ## Arithmetic and registers -/

/-- R151: `LD Vx,kk` writes `KK` to `V[X]`; `VF` changes only if `X = 15`. -/
def Obligations.LoadImmediateWritesTheRegister : Prop :=
  ∀ (x : RegNo) (kk : Byte) (s : State),
    encode (.ldVxKk x kk) = (0x6#4 ++ x ++ kk : Word) ∧ WritesReg (.ldVxKk x kk) x kk s

/-- R152 to R156: the immediate add, the copy and the logic operations write `V[X]` and no flag.
That they leave `VF` alone is the spec's decisions D16, D17 (log 18). -/
def Obligations.AddImmediateAndLogicWriteOneRegister : Prop :=
  ∀ (x y : RegNo) (kk : Byte) (s : State),
    (encode (.addVxKk x kk) = (0x7#4 ++ x ++ kk : Word) ∧
      WritesReg (.addVxKk x kk) x (BitVec.ofNat 8 (((s.reg x).toNat + kk.toNat) % 256)) s) ∧
    (encode (.ldVxVy x y) = (0x8#4 ++ x ++ y ++ 0x0#4 : Word) ∧ WritesReg (.ldVxVy x y) x (s.reg y) s) ∧
    (encode (.orVxVy x y) = (0x8#4 ++ x ++ y ++ 0x1#4 : Word) ∧
      WritesReg (.orVxVy x y) x (s.reg x ||| s.reg y) s) ∧
    (encode (.andVxVy x y) = (0x8#4 ++ x ++ y ++ 0x2#4 : Word) ∧
      WritesReg (.andVxVy x y) x (s.reg x &&& s.reg y) s) ∧
    (encode (.xorVxVy x y) = (0x8#4 ++ x ++ y ++ 0x3#4 : Word) ∧
      WritesReg (.xorVxVy x y) x (s.reg x ^^^ s.reg y) s)

/-- R157, R158, R160 (with R32, R150, R164): the adds and subtracts of registers, result modulo 256, the flag written
last.
The numbers and the order of reads are the spec's decisions D14, D20 (log 18). -/
def Obligations.AddAndSubtractSetTheFlag : Prop :=
  ∀ (x y : RegNo) (s : State),
    (encode (.addVxVy x y) = (0x8#4 ++ x ++ y ++ 0x4#4 : Word) ∧
      WritesRegAndFlag (.addVxVy x y) x (BitVec.ofNat 8 (((s.reg x).toNat + (s.reg y).toNat) % 256))
        (if (s.reg x).toNat + (s.reg y).toNat > 255 then 1 else 0) s) ∧
    (encode (.subVxVy x y) = (0x8#4 ++ x ++ y ++ 0x5#4 : Word) ∧
      WritesRegAndFlag (.subVxVy x y) x (BitVec.ofNat 8 (((s.reg x).toNat + 256 - (s.reg y).toNat) % 256))
        (if (s.reg x).toNat ≥ (s.reg y).toNat then 1 else 0) s) ∧
    (encode (.subnVxVy x y) = (0x8#4 ++ x ++ y ++ 0x7#4 : Word) ∧
      WritesRegAndFlag (.subnVxVy x y) x (BitVec.ofNat 8 (((s.reg y).toNat + 256 - (s.reg x).toNat) % 256))
        (if (s.reg y).toNat ≥ (s.reg x).toNat then 1 else 0) s)

/-- R159, R161, R162: the shifts, of the value the quirks select, with the bit shifted out as the flag.
Polarity, direction and the `Y = 0` rule are the spec's decisions D18, D19 (log 5, 18). -/
def Obligations.ShiftsWorkOnTheSelectedValue : Prop :=
  ∀ (x y : RegNo) (s : State) (v : Byte),
    (v = if s.qcfg.shiftVx then s.reg x else if s.qcfg.shiftY0Vx ∧ y = 0 then s.reg x else s.reg y) →
    (encode (.shrVxVy x y) = (0x8#4 ++ x ++ y ++ 0x6#4 : Word) ∧
      WritesRegAndFlag (.shrVxVy x y) x (v >>> 1) (if v.getLsbD 0 then 1 else 0) s) ∧
    (encode (.shlVxVy x y) = (0x8#4 ++ x ++ y ++ 0xE#4 : Word) ∧
      WritesRegAndFlag (.shlVxVy x y) x (v <<< 1) (if v.getLsbD 7 then 1 else 0) s)

/-- R163: `RND Vx,kk` masks the byte of the `rnd` port, which is a free value where the state gives none; where group
0xC is not admitted it halts with `UndefinedOpcode`.
The instruction is the spec's decision D29; the port's form is the model's (log 9, 11, 15). The statement holds for
every value of the free byte. -/
def Obligations.RandomMasksADrawnByte : Prop :=
  ∀ (x : RegNo) (kk : Byte) (s : State),
    encode (.rnd x kk) = (0xC#4 ++ x ++ kk : Word) ∧
    (s.qcfg.admitRnd = true →
      ∃ t, exec (.rnd x kk) s = .next t ∧
        (∀ j, t.reg j = if j = x then s.rndIn.headD (Config.freeByte s.free) &&& kk else s.reg j) ∧
        t = { s with v := t.v, rndIn := s.rndIn.tail, free := s.free + (1 - s.rndIn.length) } ∧
        SameBytes s t) ∧
    (s.qcfg.admitRnd = false →
      ∃ t, exec (.rnd x kk) s = .next t ∧
        HaltedFrom s t .undefinedOpcode (s.pc - 2) (encode (.rnd x kk)) 0 0)

/-- R31: the flag-setting instructions leave 0 or 1 in `VF`, and no other instruction writes `VF` unless its `X` field
is 15.
That only these write it rests on the spec's decisions D16, D17; `VF` after a draw that halts on D26 (log 16, 18). -/
def Obligations.OnlyFlagInstructionsWriteVF : Prop :=
  ∀ (i : Instr) (s t : State), exec i s = .next t →
    match i with
    | .addVxVy _ _ | .subVxVy _ _ | .subnVxVy _ _ | .shrVxVy _ _ | .shlVxVy _ _ | .drw _ _ _ =>
      t.reg 15 = 0 ∨ t.reg 15 = 1
    | _ => i.xField ≠ some 15 → t.reg 15 = s.reg 15

/-! ## Index pointer and memory blocks -/

/-- R180, R181, R182: the writes of `I`, unchecked; no other field and no byte of memory changes.
The second is the spec's decision D22, the third's operand D23 (log 18). -/
def Obligations.IndexPointerWrites : Prop :=
  ∀ (nnn : Addr12) (x : RegNo) (s : State),
    (encode (.ldI nnn) = (0xA#4 ++ nnn : Word) ∧
      ∃ t, exec (.ldI nnn) s = .next t ∧ t.idx.toNat = nnn.toNat ∧ t = { s with idx := t.idx } ∧ SameBytes s t) ∧
    (encode (.addIVx x) = (0xF#4 ++ x ++ 0x1E#8 : Word) ∧
      ∃ t, exec (.addIVx x) s = .next t ∧ t.idx.toNat = (s.idx.toNat + (s.reg x).toNat) % 65536 ∧
        t = { s with idx := t.idx } ∧ SameBytes s t) ∧
    (encode (.ldFVx x) = (0xF#4 ++ x ++ 0x29#8 : Word) ∧
      ∃ t, exec (.ldFVx x) s = .next t ∧
        t.idx = BitVec.ofNat 16 (s.cfg.fontBase + 5 * ((s.reg x).toNat % 16)) ∧
        t = { s with idx := t.idx } ∧ SameBytes s t)

/-- R183, R188: `LD B,Vx` stores the hundreds, tens and ones of `V[X]` at `I`, `I + 1`, `I + 2`.
What a halt on the way leaves is the spec's decision D24 (log 16). -/
def Obligations.BcdStoresThreeDigits : Prop :=
  ∀ (x : RegNo) (s : State),
    encode (.ldBVx x) = (0xF#4 ++ x ++ 0x33#8 : Word) ∧
    StoresBlock (.ldBVx x)
      [BitVec.ofNat 8 ((s.reg x).toNat / 100), BitVec.ofNat 8 ((s.reg x).toNat / 10 % 10),
        BitVec.ofNat 8 ((s.reg x).toNat % 10)] s

/-- R184, R185: `LD [I],Vx` stores `V[0]`..`V[X]` at ascending addresses from `I`.
The range `0..X` is the spec's decision D25, `I` after a halt D24 (log 16, 18). -/
def Obligations.BlockStoreWritesRegisters : Prop :=
  ∀ (x : RegNo) (s : State),
    encode (.ldMemVx x) = (0xF#4 ++ x ++ 0x55#8 : Word) ∧
    StoresBlock (.ldMemVx x) ((List.range (x.toNat + 1)).map fun k => s.reg (BitVec.ofNat 4 k)) s

/-- R186, R187: `LD Vx,[I]` loads `V[0]`..`V[X]` from ascending addresses from `I`; `I` advances unless `Q_KEEP_I`. At
the first address out of range it halts, the registers before it loaded and `I` unchanged. No byte of memory changes.
The range `0..X` is the spec's decision D25, `I` after a halt D24 (log 16, 18). -/
def Obligations.BlockRecallLoadsRegisters : Prop :=
  ∀ (x : RegNo) (s : State),
    encode (.ldVxMem x) = (0xF#4 ++ x ++ 0x65#8 : Word) ∧
    ∃ t, exec (.ldVxMem x) s = .next t ∧ SameBytes s t ∧
      (∀ j : RegNo, t.reg j =
        if j.toNat ≤ x.toNat ∧ s.idx.toNat + j.toNat < s.cfg.memSize then s.byteAt (s.idx.toNat + j.toNat)
        else s.reg j) ∧
      (s.idx.toNat + x.toNat < s.cfg.memSize →
        t = { s with
              v := t.v
              idx := if s.qcfg.keepI then s.idx else BitVec.ofNat 16 (s.idx.toNat + (x.toNat + 1)) }) ∧
      (∀ k, k ≤ x.toNat → s.cfg.memSize ≤ s.idx.toNat + k → (∀ j, j < k → s.idx.toNat + j < s.cfg.memSize) →
        HaltedFrom { s with v := t.v } t .outOfRange (s.pc - 2) (encode (.ldVxMem x)) (s.idx.toNat + k) 0)

/-- R34: `I` is written only by the three index instructions and, unless `Q_KEEP_I`, by the three block
instructions.
That `I` stays when the instruction halts is the spec's decision D24 (log 16). -/
def Obligations.OnlyListedInstructionsWriteI : Prop :=
  ∀ (i : Instr) (s t : State), exec i s = .next t →
    match i with
    | .ldI _ | .addIVx _ | .ldFVx _ => True
    | .ldBVx _ | .ldMemVx _ | .ldVxMem _ => s.qcfg.keepI = true → t.idx = s.idx
    | _ => t.idx = s.idx

/-- R77: only `LD B,Vx` and `LD [I],Vx` store; every other instruction leaves every byte of memory as it was. -/
def Obligations.OnlyTwoInstructionsStore : Prop :=
  ∀ (i : Instr) (s t : State), exec i s = .next t →
    (∀ x, i ≠ .ldBVx x) → (∀ x, i ≠ .ldMemVx x) → t.mem = s.mem ∧ SameBytes s t

/-- R73, R74: a write below `MEM_SIZE` succeeds at every address, font and program included; reading it back gives the
byte, every other byte is as before; at and above `MEM_SIZE` reads and writes fail. -/
def Obligations.ReadAfterWrite : Prop :=
  ∀ (s : State) (a : Nat) (b : Byte),
    (a < s.cfg.memSize →
      ∃ t, s.writeByte a b = some t ∧ t.readByte a = some b ∧
        (∀ a', a' ≠ a → t.readByte a' = s.readByte a') ∧ t = { s with mem := t.mem }) ∧
    (s.cfg.memSize ≤ a → s.writeByte a b = none ∧ s.readByte a = none)

/-- R84: a store is seen by every later fetch: after the two bytes of a word are stored at `PC`, the next step runs
that word.
An inference the spec marks as derived (R84, R75); `popDue`, the schedule of transitions moved on by one, is the model's
(log 8). -/
def Obligations.FetchSeesStoredBytes : Prop :=
  ∀ (s t u : State) (i : Instr), s.run = .running → s.due = .step →
    s.pc.toNat < s.progEnd.toNat →
    s.writeByte s.pc.toNat (fieldHI (encode i)) = some t →
    t.writeByte (s.pc.toNat + 1) (fieldKK (encode i)) = some u →
    step u = exec i { u.popDue with pc := s.pc + 2 }

/-! ## Draw -/

/-- R200, R201, R203: `DRW` reads `Rows(N)` sprite bytes and requests one plot for each set bit, row by row, left to
right, at unreduced coordinates; `VF` is 1 exactly if an answer was "already set"; one redraw follows if a request was
issued. At the first row out of memory it halts after the rows before it, without a redraw.
Origin, order, unreduced coordinates and the halting case are the spec's decision D26, the redraw D27 (log 16, 23); the
answers' form is the model's, and the statement holds for every free answer (log 10). -/
def Obligations.DrawPlotsTheSprite : Prop :=
  ∀ (x y : RegNo) (n : Nibble) (s : State) (rows : Nat),
    (rows = if n = 0 then (if s.qcfg.zero16 then 16 else 0) else n.toNat) →
    encode (.drw x y n) = (0xD#4 ++ x ++ y ++ n : Word) ∧
    ((∀ r, r < rows → s.idx.toNat + r < s.cfg.memSize) →
      ∃ u, DrewRows s u (s.reg x).toNat (s.reg y).toNat rows ∧
        exec (.drw x y n) s = .next
          { u with
            requests := u.requests ++
              (if s.spriteRequests (s.reg x).toNat (s.reg y).toNat rows = [] then [] else [.redraw]) }) ∧
    (∀ r, r < rows → s.cfg.memSize ≤ s.idx.toNat + r → (∀ j, j < r → s.idx.toNat + j < s.cfg.memSize) →
      ∃ u t, DrewRows s u (s.reg x).toNat (s.reg y).toNat r ∧ exec (.drw x y n) s = .next t ∧
        HaltedFrom u t .outOfRange (s.pc - 2) (encode (.drw x y n)) (s.idx.toNat + r) 0)

/-- R202: the coordinates of a draw's requests stay within 0..262 and 0..270.
These ranges rest on the spec's decision D26 (log 18). -/
def Obligations.PlotCoordinatesAreBounded : Prop :=
  ∀ (i : Instr) (s t : State), exec i s = .next t →
    ∃ rs, t.requests = s.requests ++ rs ∧
      ∀ px py, Request.plotXor px py ∈ rs → px ≤ 262 ∧ py ≤ 270

/-- The source's draw property (95_test_vectors.md S5, R201) on the reference surface (R205), clear at start: a
one-row sprite that is not blank, drawn twice at the same place, leaves `VF` 0 and then 1.
The reference surface is the spec's decision D46 and binds no other statement (log 10). -/
def Obligations.DrawingTwiceCollides : Prop :=
  ∀ (x y : RegNo) (s : State) (rest : List Bool), x ≠ 15 → y ≠ 15 →
    s.idx.toNat < s.cfg.memSize → s.byteAt s.idx.toNat ≠ 0 →
    s.plotIn = (Surface.reference.replay []
      (s.spriteRequests (s.reg x).toNat (s.reg y).toNat 1 ++
        s.spriteRequests (s.reg x).toNat (s.reg y).toNat 1)).2 ++ rest →
    ∃ t u, exec (.drw x y 1) s = .next t ∧ exec (.drw x y 1) t = .next u ∧
      t.reg 15 = 0 ∧ u.reg 15 = 1 ∧ u.plotIn = rest

/-- R204: `CLS` issues `clear()` and `redraw()` and changes nothing else, `VF` included.
The instruction is the spec's decision D28 (log 18, 23). -/
def Obligations.ClearScreenOnlyRequests : Prop :=
  ∀ s : State,
    encode .cls = 0x00E0 ∧
    ∃ t, exec .cls s = .next t ∧ t = { s with requests := s.requests ++ [.clear, .redraw] } ∧ SameBytes s t

/-! ## Timers and ports -/

/-- R215: one tick: each non-zero counter loses one while running, `stop_tone()` exactly when `ST` reaches zero;
nothing when halted.
That a tick does nothing when halted is the spec's decision D33 (log 20). -/
def Obligations.TickCountsDown : Prop :=
  ∀ s : State,
    (s.run = .running →
      (tick s).dt.toNat = s.dt.toNat - 1 ∧ (tick s).st.toNat = s.st.toNat - 1 ∧
      (tick s).requests = s.requests ++ (if s.st = 1 then [.stopTone] else []) ∧
      tick s = { s with dt := (tick s).dt, st := (tick s).st, requests := (tick s).requests } ∧
      SameBytes s (tick s)) ∧
    (s.run = .halted → tick s = s)

/-- The source's timer property (95_test_vectors.md S6, R215), for any count: `n` ticks take both counters down by `n`
and stop at zero, and at most one `stop_tone()` is issued, exactly when `ST` was in `1..n`. -/
def Obligations.ManyTicksStopAtZero : Prop :=
  ∀ (n : Nat) (s : State), s.run = .running →
    (tick^[n] s).dt.toNat = s.dt.toNat - n ∧ (tick^[n] s).st.toNat = s.st.toNat - n ∧
    (tick^[n] s).requests =
      s.requests ++ (if 1 ≤ s.st.toNat ∧ s.st.toNat ≤ n then [.stopTone] else [])

/-- R216, R217, R218: the reads and writes of the counters, and the tone request.
The read is the spec's decision D30, the request for 0 its decision D34 (log 18). -/
def Obligations.TimerInstructions : Prop :=
  ∀ (x : RegNo) (s : State),
    (encode (.ldVxDt x) = (0xF#4 ++ x ++ 0x07#8 : Word) ∧ WritesReg (.ldVxDt x) x s.dt s) ∧
    (encode (.ldDtVx x) = (0xF#4 ++ x ++ 0x15#8 : Word) ∧
      ∃ t, exec (.ldDtVx x) s = .next t ∧ t = { s with dt := s.reg x } ∧ SameBytes s t) ∧
    (encode (.ldStVx x) = (0xF#4 ++ x ++ 0x18#8 : Word) ∧
      ∃ t, exec (.ldStVx x) s = .next t ∧
        t = { s with st := s.reg x, requests := s.requests ++ [.startTone (s.reg x)] } ∧
        t.audioGate = decide (s.reg x ≠ 0) ∧ SameBytes s t)

/-- R215: the counters "tick only in response to the external 60 Hz driver call, never from the CPU instruction
stream": an instruction leaves them alone unless it is the one that sets them.
The instructions that write are the spec's general knowledge GK18, GK19 (log 18). -/
def Obligations.NoInstructionCountsATimer : Prop :=
  ∀ (i : Instr) (s t : State), exec i s = .next t →
    (t.dt = s.dt ∨ ∃ x, i = .ldDtVx x ∧ t.dt = s.reg x) ∧
    (t.st = s.st ∨ ∃ x, i = .ldStVx x ∧ t.st = s.reg x)

/-- R220, R202: which instruction issues which request; none stops a tone.
The requests' sources rest on the spec's decisions D27, D28, D34 (log 12, 18, 23). -/
def Obligations.RequestsHaveTheirInstruction : Prop :=
  ∀ (i : Instr) (s t : State), exec i s = .next t →
    ∃ rs, t.requests = s.requests ++ rs ∧ ∀ r, r ∈ rs →
      match r with
      | .plotXor _ _ => ∃ x y n, i = .drw x y n
      | .clear => i = .cls
      | .redraw => i = .cls ∨ ∃ x y n, i = .drw x y n
      | .startTone d => ∃ x, i = .ldStVx x ∧ d = s.reg x
      | .stopTone => False

/-! ## Input -/

/-- R231, R232: the key skips; the cancel key is tested first and halts with `KeyCancel`.
The operand and the latch's form are the spec's decision D31, `PC` after a halt D11 (log 7, 17, 18). -/
def Obligations.KeySkips : Prop :=
  ∀ (x : RegNo) (s : State),
    encode (.skp x) = (0xE#4 ++ x ++ 0x9E#8 : Word) ∧ encode (.sknp x) = (0xE#4 ++ x ++ 0xA1#8 : Word) ∧
    (s.key = .cancel →
      (∃ t, exec (.skp x) s = .next t ∧ HaltedFrom s t .keyCancel (s.pc - 2) (encode (.skp x)) 0 0) ∧
      (∃ t, exec (.sknp x) s = .next t ∧ HaltedFrom s t .keyCancel (s.pc - 2) (encode (.sknp x)) 0 0)) ∧
    (s.key ≠ .cancel →
      SkipsIf (.skp x) (s.key = .key (s.reg x)) s ∧ SkipsIf (.sknp x) (s.key ≠ .key (s.reg x)) s)

/-- R233: `LD Vx,K` with a key, with none, and with the cancel key.
The cancel case is the spec's decision D32, the latch's form D31 (log 7, 18). -/
def Obligations.KeyWaitTakesAKey : Prop :=
  ∀ (x : RegNo) (s : State),
    encode (.ldVxK x) = (0xF#4 ++ x ++ 0x0A#8 : Word) ∧
    (s.key = .none → exec (.ldVxK x) s = .next { s with pc := s.pc - 2 }) ∧
    (∀ k, s.key = .key k → WritesReg (.ldVxK x) x k s) ∧
    (s.key = .cancel →
      ∃ t, exec (.ldVxK x) s = .next t ∧ HaltedFrom s t .keyCancel (s.pc - 2) (encode (.ldVxK x)) 0 0)

/-- R233: "A waiting step leaves the whole core state exactly as it was before the step".
The encoding is the spec's general knowledge GK20 (log 18); `popDue` moves on the schedule of transitions, which is
the model's and no core state (log 8). -/
def Obligations.WaitingStepChangesNothing : Prop :=
  ∀ (s : State) (x : RegNo), s.due = .step → s.run = .running → s.key = .none →
    s.pc.toNat < s.progEnd.toNat → s.readWord s.pc.toNat = some (encode (.ldVxK x)) →
    step s = .next s.popDue

/-- R234: the latch, and so a latched `Cancel`, is seen only by the three instructions of the input gate: the effect of
every other one is the same whatever the latch holds, and none of them halts with `KeyCancel`. -/
def Obligations.OnlyInputInstructionsSeeTheKey : Prop :=
  ∀ (i : Instr) (s t : State) (k : KeyLatch),
    (∀ x, i ≠ .skp x) → (∀ x, i ≠ .sknp x) → (∀ x, i ≠ .ldVxK x) →
    exec i s = .next t →
    exec i { s with key := k } = .next { t with key := k } ∧
    (s.run = .running → t.run = .halted → t.halt.cause ≠ .keyCancel)

/-! ## Reset, session and invariant -/

/-- R300, R301, R302: reset with a program.
The zeros and `MEM_INIT` are the spec's decisions D6, D5, a failed load D41, that no request is issued D46 (log 3, 4,
26). -/
def Obligations.ResetLoadsTheProgram : Prop :=
  ∀ (s t : State) (q : QCfg) (prog : List Byte), s.cfg.wf = true → t = s.resetWith q prog →
    (∀ j, t.reg j = 0) ∧ t.idx = 0 ∧ t.sp.val = 0 ∧ (∀ k (h : k < 16), t.stack[k] = 0) ∧ t.dt = 0 ∧ t.st = 0 ∧
    t.pc.toNat = s.cfg.loadAddr ∧ t.qcfg = q ∧ t.cfg = s.cfg ∧ t.requests = s.requests ∧
    (∀ k (h : k < 80), t.byteAt (s.cfg.fontBase + k) = s.cfg.fontData[k]) ∧
    (∀ a, a < s.cfg.loadAddr → ¬(s.cfg.fontBase ≤ a ∧ a < s.cfg.fontBase + 80) →
      t.byteAt a = (Memory.find s.cfg.memInit a).getD 0) ∧
    (prog.length ≤ s.cfg.memSize - s.cfg.loadAddr →
      t.run = .running ∧ t.halt = HaltRecord.zero ∧ t.progEnd.toNat = s.cfg.loadAddr + prog.length ∧
      (∀ k (h : k < prog.length), t.byteAt (s.cfg.loadAddr + k) = prog[k]) ∧
      (∀ a, s.cfg.loadAddr + prog.length ≤ a → t.byteAt a = (Memory.find s.cfg.memInit a).getD 0)) ∧
    (s.cfg.memSize - s.cfg.loadAddr < prog.length →
      t.run = .halted ∧ t.halt = { HaltRecord.zero with cause := .programTooLarge } ∧
      t.progEnd.toNat = s.cfg.loadAddr ∧
      ∀ a, s.cfg.loadAddr ≤ a → t.byteAt a = (Memory.find s.cfg.memInit a).getD 0)

/-- R53, R40 with the default parameters of R6 and an empty program (log 1 to 6): the state after reset.
All the model's choices of parameters and reset values: log 1 to 6. -/
def Obligations.ResetStateValues : Prop :=
  State.reset.run = .running ∧ State.reset.halt = HaltRecord.zero ∧ State.reset.pc = 0x200 ∧
  State.reset.progEnd = 0x200 ∧ State.reset.sp = 0 ∧ State.reset.idx = 0 ∧ State.reset.dt = 0 ∧
  State.reset.st = 0 ∧ (∀ j, State.reset.reg j = 0) ∧ State.reset.audioGate = false ∧
  State.reset.requests = [] ∧ State.reset.mem = [] ∧
  (List.range 5).map (fun k => State.reset.byteAt (0x050 + k)) = [0xF0, 0x90, 0x90, 0x90, 0xF0] ∧
  (List.range 5).map (fun k => State.reset.byteAt (0x09B + k)) = [0xF0, 0x80, 0xF0, 0x80, 0x80] ∧
  State.reset.byteAt 0x04F = 0 ∧ State.reset.byteAt 0x0A0 = 0 ∧ State.reset.byteAt 0x200 = 0

/-- R304, R45: no transition but a reset changes the configuration, the parameters or `PROG_END`. -/
def Obligations.SessionConfigurationIsConstant : Prop :=
  ∀ s t : State,
    (∀ q prog, s.due ≠ .reset q prog) →
    step s = .next t → t.qcfg = s.qcfg ∧ t.cfg = s.cfg ∧ t.progEnd = s.progEnd

/-- R36 and the invariants of R37, R39, R44: every transition keeps the invariant, resets included.
The range of `PC` is an inference the spec marks as derived (R36, D13). -/
def Obligations.StepKeepsTheInvariant : Prop :=
  ∀ s t : State, Inv s → step s = .next t → Inv t

/-- The invariant holds after reset.
It rests on the model's default parameters (log 1 to 5). -/
def Obligations.ResetMeetsTheInvariant : Prop :=
  Inv State.reset

/-- R253: every interleaving of steps, ticks and key changes may come, for ever. Once the listed transitions are used
up, a cycle comes round again and again; a free schedule goes on with a fresh free transition each time, in a session
with a `Step()` in place of a reset.
The schedule is the model's (log 8); the statement holds for every free transition. -/
def Obligations.EventsMayComeForEver : Prop :=
  ∀ s : State,
    (∀ e, step { s with events := [], later := .cycle e [] } =
      step { s with events := [e], later := .cycle e [] }) ∧
    (∀ e e' rest, step { s with events := [], later := .cycle e (e' :: rest) } =
      step { s with events := [e], later := .cycle e' (rest ++ [e]) }) ∧
    (∀ n, step { s with events := [], later := .free n } =
      step { s with events := [Config.freeEvent n], later := .free (n + 1) }) ∧
    ∀ n, ∃ e,
      ((e = Config.freeEvent n ∧ ∀ q prog, e ≠ .reset q prog) ∨
        (e = .step ∧ ∃ q prog, Config.freeEvent n = .reset q prog)) ∧
      step { s with events := [], later := .session n } = step { s with events := [e], later := .session (n + 1) }
end

