-- ==== Sys2Proof/Laws/State.lean ====
section
/-! SUPPORT. One lemma per field for each named update of the state: the field it sets, and every field it leaves. -/

namespace Sys2Proof.Machine

/-! ### `setReg` -/

@[simp] theorem State.setReg_v (s : State) (x : RegNo) (b : Byte) :
    (s.setReg x b).v = s.v.set x.toNat b x.isLt := rfl
@[simp] theorem State.setReg_idx (s : State) (x : RegNo) (b : Byte) :
    (s.setReg x b).idx = s.idx := rfl
@[simp] theorem State.setReg_pc (s : State) (x : RegNo) (b : Byte) :
    (s.setReg x b).pc = s.pc := rfl
@[simp] theorem State.setReg_stack (s : State) (x : RegNo) (b : Byte) :
    (s.setReg x b).stack = s.stack := rfl
@[simp] theorem State.setReg_sp (s : State) (x : RegNo) (b : Byte) :
    (s.setReg x b).sp = s.sp := rfl
@[simp] theorem State.setReg_mem (s : State) (x : RegNo) (b : Byte) :
    (s.setReg x b).mem = s.mem := rfl
@[simp] theorem State.setReg_dt (s : State) (x : RegNo) (b : Byte) :
    (s.setReg x b).dt = s.dt := rfl
@[simp] theorem State.setReg_st (s : State) (x : RegNo) (b : Byte) :
    (s.setReg x b).st = s.st := rfl
@[simp] theorem State.setReg_run (s : State) (x : RegNo) (b : Byte) :
    (s.setReg x b).run = s.run := rfl
@[simp] theorem State.setReg_halt (s : State) (x : RegNo) (b : Byte) :
    (s.setReg x b).halt = s.halt := rfl
@[simp] theorem State.setReg_progEnd (s : State) (x : RegNo) (b : Byte) :
    (s.setReg x b).progEnd = s.progEnd := rfl
@[simp] theorem State.setReg_qcfg (s : State) (x : RegNo) (b : Byte) :
    (s.setReg x b).qcfg = s.qcfg := rfl
@[simp] theorem State.setReg_cfg (s : State) (x : RegNo) (b : Byte) :
    (s.setReg x b).cfg = s.cfg := rfl
@[simp] theorem State.setReg_key (s : State) (x : RegNo) (b : Byte) :
    (s.setReg x b).key = s.key := rfl
@[simp] theorem State.setReg_events (s : State) (x : RegNo) (b : Byte) :
    (s.setReg x b).events = s.events := rfl
@[simp] theorem State.setReg_later (s : State) (x : RegNo) (b : Byte) :
    (s.setReg x b).later = s.later := rfl
@[simp] theorem State.setReg_rndIn (s : State) (x : RegNo) (b : Byte) :
    (s.setReg x b).rndIn = s.rndIn := rfl
@[simp] theorem State.setReg_plotIn (s : State) (x : RegNo) (b : Byte) :
    (s.setReg x b).plotIn = s.plotIn := rfl
@[simp] theorem State.setReg_free (s : State) (x : RegNo) (b : Byte) :
    (s.setReg x b).free = s.free := rfl
@[simp] theorem State.setReg_requests (s : State) (x : RegNo) (b : Byte) :
    (s.setReg x b).requests = s.requests := rfl

/-! ### `setResultAndFlag` -/

@[simp] theorem State.setResultAndFlag_idx (s : State) (x : RegNo) (b c : Byte) :
    (s.setResultAndFlag x b c).idx = s.idx := rfl
@[simp] theorem State.setResultAndFlag_pc (s : State) (x : RegNo) (b c : Byte) :
    (s.setResultAndFlag x b c).pc = s.pc := rfl
@[simp] theorem State.setResultAndFlag_stack (s : State) (x : RegNo) (b c : Byte) :
    (s.setResultAndFlag x b c).stack = s.stack := rfl
@[simp] theorem State.setResultAndFlag_sp (s : State) (x : RegNo) (b c : Byte) :
    (s.setResultAndFlag x b c).sp = s.sp := rfl
@[simp] theorem State.setResultAndFlag_mem (s : State) (x : RegNo) (b c : Byte) :
    (s.setResultAndFlag x b c).mem = s.mem := rfl
@[simp] theorem State.setResultAndFlag_dt (s : State) (x : RegNo) (b c : Byte) :
    (s.setResultAndFlag x b c).dt = s.dt := rfl
@[simp] theorem State.setResultAndFlag_st (s : State) (x : RegNo) (b c : Byte) :
    (s.setResultAndFlag x b c).st = s.st := rfl
@[simp] theorem State.setResultAndFlag_run (s : State) (x : RegNo) (b c : Byte) :
    (s.setResultAndFlag x b c).run = s.run := rfl
@[simp] theorem State.setResultAndFlag_halt (s : State) (x : RegNo) (b c : Byte) :
    (s.setResultAndFlag x b c).halt = s.halt := rfl
@[simp] theorem State.setResultAndFlag_progEnd (s : State) (x : RegNo) (b c : Byte) :
    (s.setResultAndFlag x b c).progEnd = s.progEnd := rfl
@[simp] theorem State.setResultAndFlag_qcfg (s : State) (x : RegNo) (b c : Byte) :
    (s.setResultAndFlag x b c).qcfg = s.qcfg := rfl
@[simp] theorem State.setResultAndFlag_cfg (s : State) (x : RegNo) (b c : Byte) :
    (s.setResultAndFlag x b c).cfg = s.cfg := rfl
@[simp] theorem State.setResultAndFlag_key (s : State) (x : RegNo) (b c : Byte) :
    (s.setResultAndFlag x b c).key = s.key := rfl
@[simp] theorem State.setResultAndFlag_events (s : State) (x : RegNo) (b c : Byte) :
    (s.setResultAndFlag x b c).events = s.events := rfl
@[simp] theorem State.setResultAndFlag_later (s : State) (x : RegNo) (b c : Byte) :
    (s.setResultAndFlag x b c).later = s.later := rfl
@[simp] theorem State.setResultAndFlag_rndIn (s : State) (x : RegNo) (b c : Byte) :
    (s.setResultAndFlag x b c).rndIn = s.rndIn := rfl
@[simp] theorem State.setResultAndFlag_plotIn (s : State) (x : RegNo) (b c : Byte) :
    (s.setResultAndFlag x b c).plotIn = s.plotIn := rfl
@[simp] theorem State.setResultAndFlag_free (s : State) (x : RegNo) (b c : Byte) :
    (s.setResultAndFlag x b c).free = s.free := rfl
@[simp] theorem State.setResultAndFlag_requests (s : State) (x : RegNo) (b c : Byte) :
    (s.setResultAndFlag x b c).requests = s.requests := rfl

/-! ### `setByte` -/

@[simp] theorem State.setByte_v (s : State) (a : Nat) (b : Byte) :
    (s.setByte a b).v = s.v := rfl
@[simp] theorem State.setByte_idx (s : State) (a : Nat) (b : Byte) :
    (s.setByte a b).idx = s.idx := rfl
@[simp] theorem State.setByte_pc (s : State) (a : Nat) (b : Byte) :
    (s.setByte a b).pc = s.pc := rfl
@[simp] theorem State.setByte_stack (s : State) (a : Nat) (b : Byte) :
    (s.setByte a b).stack = s.stack := rfl
@[simp] theorem State.setByte_sp (s : State) (a : Nat) (b : Byte) :
    (s.setByte a b).sp = s.sp := rfl
@[simp] theorem State.setByte_mem (s : State) (a : Nat) (b : Byte) :
    (s.setByte a b).mem = Memory.write s.cfg s.mem a b := rfl
@[simp] theorem State.setByte_dt (s : State) (a : Nat) (b : Byte) :
    (s.setByte a b).dt = s.dt := rfl
@[simp] theorem State.setByte_st (s : State) (a : Nat) (b : Byte) :
    (s.setByte a b).st = s.st := rfl
@[simp] theorem State.setByte_run (s : State) (a : Nat) (b : Byte) :
    (s.setByte a b).run = s.run := rfl
@[simp] theorem State.setByte_halt (s : State) (a : Nat) (b : Byte) :
    (s.setByte a b).halt = s.halt := rfl
@[simp] theorem State.setByte_progEnd (s : State) (a : Nat) (b : Byte) :
    (s.setByte a b).progEnd = s.progEnd := rfl
@[simp] theorem State.setByte_qcfg (s : State) (a : Nat) (b : Byte) :
    (s.setByte a b).qcfg = s.qcfg := rfl
@[simp] theorem State.setByte_cfg (s : State) (a : Nat) (b : Byte) :
    (s.setByte a b).cfg = s.cfg := rfl
@[simp] theorem State.setByte_key (s : State) (a : Nat) (b : Byte) :
    (s.setByte a b).key = s.key := rfl
@[simp] theorem State.setByte_events (s : State) (a : Nat) (b : Byte) :
    (s.setByte a b).events = s.events := rfl
@[simp] theorem State.setByte_later (s : State) (a : Nat) (b : Byte) :
    (s.setByte a b).later = s.later := rfl
@[simp] theorem State.setByte_rndIn (s : State) (a : Nat) (b : Byte) :
    (s.setByte a b).rndIn = s.rndIn := rfl
@[simp] theorem State.setByte_plotIn (s : State) (a : Nat) (b : Byte) :
    (s.setByte a b).plotIn = s.plotIn := rfl
@[simp] theorem State.setByte_free (s : State) (a : Nat) (b : Byte) :
    (s.setByte a b).free = s.free := rfl
@[simp] theorem State.setByte_requests (s : State) (a : Nat) (b : Byte) :
    (s.setByte a b).requests = s.requests := rfl

/-! ### `request` -/

@[simp] theorem State.request_v (s : State) (r : Request) :
    (s.request r).v = s.v := rfl
@[simp] theorem State.request_idx (s : State) (r : Request) :
    (s.request r).idx = s.idx := rfl
@[simp] theorem State.request_pc (s : State) (r : Request) :
    (s.request r).pc = s.pc := rfl
@[simp] theorem State.request_stack (s : State) (r : Request) :
    (s.request r).stack = s.stack := rfl
@[simp] theorem State.request_sp (s : State) (r : Request) :
    (s.request r).sp = s.sp := rfl
@[simp] theorem State.request_mem (s : State) (r : Request) :
    (s.request r).mem = s.mem := rfl
@[simp] theorem State.request_dt (s : State) (r : Request) :
    (s.request r).dt = s.dt := rfl
@[simp] theorem State.request_st (s : State) (r : Request) :
    (s.request r).st = s.st := rfl
@[simp] theorem State.request_run (s : State) (r : Request) :
    (s.request r).run = s.run := rfl
@[simp] theorem State.request_halt (s : State) (r : Request) :
    (s.request r).halt = s.halt := rfl
@[simp] theorem State.request_progEnd (s : State) (r : Request) :
    (s.request r).progEnd = s.progEnd := rfl
@[simp] theorem State.request_qcfg (s : State) (r : Request) :
    (s.request r).qcfg = s.qcfg := rfl
@[simp] theorem State.request_cfg (s : State) (r : Request) :
    (s.request r).cfg = s.cfg := rfl
@[simp] theorem State.request_key (s : State) (r : Request) :
    (s.request r).key = s.key := rfl
@[simp] theorem State.request_events (s : State) (r : Request) :
    (s.request r).events = s.events := rfl
@[simp] theorem State.request_later (s : State) (r : Request) :
    (s.request r).later = s.later := rfl
@[simp] theorem State.request_rndIn (s : State) (r : Request) :
    (s.request r).rndIn = s.rndIn := rfl
@[simp] theorem State.request_plotIn (s : State) (r : Request) :
    (s.request r).plotIn = s.plotIn := rfl
@[simp] theorem State.request_free (s : State) (r : Request) :
    (s.request r).free = s.free := rfl
@[simp] theorem State.request_requests (s : State) (r : Request) :
    (s.request r).requests = s.requests ++ [r] := rfl

/-! ### `haltAt` -/

@[simp] theorem State.haltAt_v (s : State) (k : Cause) (pc0 w : Word) (a : Nat) (e : Byte) :
    (s.haltAt k pc0 w a e).v = s.v := rfl
@[simp] theorem State.haltAt_idx (s : State) (k : Cause) (pc0 w : Word) (a : Nat) (e : Byte) :
    (s.haltAt k pc0 w a e).idx = s.idx := rfl
@[simp] theorem State.haltAt_pc (s : State) (k : Cause) (pc0 w : Word) (a : Nat) (e : Byte) :
    (s.haltAt k pc0 w a e).pc = s.pc := rfl
@[simp] theorem State.haltAt_stack (s : State) (k : Cause) (pc0 w : Word) (a : Nat) (e : Byte) :
    (s.haltAt k pc0 w a e).stack = s.stack := rfl
@[simp] theorem State.haltAt_sp (s : State) (k : Cause) (pc0 w : Word) (a : Nat) (e : Byte) :
    (s.haltAt k pc0 w a e).sp = s.sp := rfl
@[simp] theorem State.haltAt_mem (s : State) (k : Cause) (pc0 w : Word) (a : Nat) (e : Byte) :
    (s.haltAt k pc0 w a e).mem = s.mem := rfl
@[simp] theorem State.haltAt_dt (s : State) (k : Cause) (pc0 w : Word) (a : Nat) (e : Byte) :
    (s.haltAt k pc0 w a e).dt = s.dt := rfl
@[simp] theorem State.haltAt_st (s : State) (k : Cause) (pc0 w : Word) (a : Nat) (e : Byte) :
    (s.haltAt k pc0 w a e).st = s.st := rfl
@[simp] theorem State.haltAt_run (s : State) (k : Cause) (pc0 w : Word) (a : Nat) (e : Byte) :
    (s.haltAt k pc0 w a e).run = .halted := rfl
@[simp] theorem State.haltAt_halt (s : State) (k : Cause) (pc0 w : Word) (a : Nat) (e : Byte) :
    (s.haltAt k pc0 w a e).halt = { cause := k, pc := pc0, word := w, addr := BitVec.ofNat 17 a, exit := e } := rfl
@[simp] theorem State.haltAt_progEnd (s : State) (k : Cause) (pc0 w : Word) (a : Nat) (e : Byte) :
    (s.haltAt k pc0 w a e).progEnd = s.progEnd := rfl
@[simp] theorem State.haltAt_qcfg (s : State) (k : Cause) (pc0 w : Word) (a : Nat) (e : Byte) :
    (s.haltAt k pc0 w a e).qcfg = s.qcfg := rfl
@[simp] theorem State.haltAt_cfg (s : State) (k : Cause) (pc0 w : Word) (a : Nat) (e : Byte) :
    (s.haltAt k pc0 w a e).cfg = s.cfg := rfl
@[simp] theorem State.haltAt_key (s : State) (k : Cause) (pc0 w : Word) (a : Nat) (e : Byte) :
    (s.haltAt k pc0 w a e).key = s.key := rfl
@[simp] theorem State.haltAt_events (s : State) (k : Cause) (pc0 w : Word) (a : Nat) (e : Byte) :
    (s.haltAt k pc0 w a e).events = s.events := rfl
@[simp] theorem State.haltAt_later (s : State) (k : Cause) (pc0 w : Word) (a : Nat) (e : Byte) :
    (s.haltAt k pc0 w a e).later = s.later := rfl
@[simp] theorem State.haltAt_rndIn (s : State) (k : Cause) (pc0 w : Word) (a : Nat) (e : Byte) :
    (s.haltAt k pc0 w a e).rndIn = s.rndIn := rfl
@[simp] theorem State.haltAt_plotIn (s : State) (k : Cause) (pc0 w : Word) (a : Nat) (e : Byte) :
    (s.haltAt k pc0 w a e).plotIn = s.plotIn := rfl
@[simp] theorem State.haltAt_free (s : State) (k : Cause) (pc0 w : Word) (a : Nat) (e : Byte) :
    (s.haltAt k pc0 w a e).free = s.free := rfl
@[simp] theorem State.haltAt_requests (s : State) (k : Cause) (pc0 w : Word) (a : Nat) (e : Byte) :
    (s.haltAt k pc0 w a e).requests = s.requests := rfl

/-! ### `haltIn` -/

@[simp] theorem State.haltIn_v (s : State) (i : Instr) (k : Cause) (a : Nat) (e : Byte) :
    (s.haltIn i k a e).v = s.v := rfl
@[simp] theorem State.haltIn_idx (s : State) (i : Instr) (k : Cause) (a : Nat) (e : Byte) :
    (s.haltIn i k a e).idx = s.idx := rfl
@[simp] theorem State.haltIn_pc (s : State) (i : Instr) (k : Cause) (a : Nat) (e : Byte) :
    (s.haltIn i k a e).pc = s.pc := rfl
@[simp] theorem State.haltIn_stack (s : State) (i : Instr) (k : Cause) (a : Nat) (e : Byte) :
    (s.haltIn i k a e).stack = s.stack := rfl
@[simp] theorem State.haltIn_sp (s : State) (i : Instr) (k : Cause) (a : Nat) (e : Byte) :
    (s.haltIn i k a e).sp = s.sp := rfl
@[simp] theorem State.haltIn_mem (s : State) (i : Instr) (k : Cause) (a : Nat) (e : Byte) :
    (s.haltIn i k a e).mem = s.mem := rfl
@[simp] theorem State.haltIn_dt (s : State) (i : Instr) (k : Cause) (a : Nat) (e : Byte) :
    (s.haltIn i k a e).dt = s.dt := rfl
@[simp] theorem State.haltIn_st (s : State) (i : Instr) (k : Cause) (a : Nat) (e : Byte) :
    (s.haltIn i k a e).st = s.st := rfl
@[simp] theorem State.haltIn_run (s : State) (i : Instr) (k : Cause) (a : Nat) (e : Byte) :
    (s.haltIn i k a e).run = .halted := rfl
@[simp] theorem State.haltIn_halt (s : State) (i : Instr) (k : Cause) (a : Nat) (e : Byte) :
    (s.haltIn i k a e).halt = { cause := k, pc := s.pc - 2, word := encode i, addr := BitVec.ofNat 17 a, exit := e } := rfl
@[simp] theorem State.haltIn_progEnd (s : State) (i : Instr) (k : Cause) (a : Nat) (e : Byte) :
    (s.haltIn i k a e).progEnd = s.progEnd := rfl
@[simp] theorem State.haltIn_qcfg (s : State) (i : Instr) (k : Cause) (a : Nat) (e : Byte) :
    (s.haltIn i k a e).qcfg = s.qcfg := rfl
@[simp] theorem State.haltIn_cfg (s : State) (i : Instr) (k : Cause) (a : Nat) (e : Byte) :
    (s.haltIn i k a e).cfg = s.cfg := rfl
@[simp] theorem State.haltIn_key (s : State) (i : Instr) (k : Cause) (a : Nat) (e : Byte) :
    (s.haltIn i k a e).key = s.key := rfl
@[simp] theorem State.haltIn_events (s : State) (i : Instr) (k : Cause) (a : Nat) (e : Byte) :
    (s.haltIn i k a e).events = s.events := rfl
@[simp] theorem State.haltIn_later (s : State) (i : Instr) (k : Cause) (a : Nat) (e : Byte) :
    (s.haltIn i k a e).later = s.later := rfl
@[simp] theorem State.haltIn_rndIn (s : State) (i : Instr) (k : Cause) (a : Nat) (e : Byte) :
    (s.haltIn i k a e).rndIn = s.rndIn := rfl
@[simp] theorem State.haltIn_plotIn (s : State) (i : Instr) (k : Cause) (a : Nat) (e : Byte) :
    (s.haltIn i k a e).plotIn = s.plotIn := rfl
@[simp] theorem State.haltIn_free (s : State) (i : Instr) (k : Cause) (a : Nat) (e : Byte) :
    (s.haltIn i k a e).free = s.free := rfl
@[simp] theorem State.haltIn_requests (s : State) (i : Instr) (k : Cause) (a : Nat) (e : Byte) :
    (s.haltIn i k a e).requests = s.requests := rfl

/-! ### `outOfRange` -/

@[simp] theorem State.outOfRange_v (s : State) (i : Instr) (a : Nat) :
    (s.outOfRange i a).v = s.v := rfl
@[simp] theorem State.outOfRange_idx (s : State) (i : Instr) (a : Nat) :
    (s.outOfRange i a).idx = s.idx := rfl
@[simp] theorem State.outOfRange_pc (s : State) (i : Instr) (a : Nat) :
    (s.outOfRange i a).pc = s.pc := rfl
@[simp] theorem State.outOfRange_stack (s : State) (i : Instr) (a : Nat) :
    (s.outOfRange i a).stack = s.stack := rfl
@[simp] theorem State.outOfRange_sp (s : State) (i : Instr) (a : Nat) :
    (s.outOfRange i a).sp = s.sp := rfl
@[simp] theorem State.outOfRange_mem (s : State) (i : Instr) (a : Nat) :
    (s.outOfRange i a).mem = s.mem := rfl
@[simp] theorem State.outOfRange_dt (s : State) (i : Instr) (a : Nat) :
    (s.outOfRange i a).dt = s.dt := rfl
@[simp] theorem State.outOfRange_st (s : State) (i : Instr) (a : Nat) :
    (s.outOfRange i a).st = s.st := rfl
@[simp] theorem State.outOfRange_run (s : State) (i : Instr) (a : Nat) :
    (s.outOfRange i a).run = .halted := rfl
@[simp] theorem State.outOfRange_halt (s : State) (i : Instr) (a : Nat) :
    (s.outOfRange i a).halt = { cause := .outOfRange, pc := s.pc - 2, word := encode i, addr := BitVec.ofNat 17 a, exit := 0 } := rfl
@[simp] theorem State.outOfRange_progEnd (s : State) (i : Instr) (a : Nat) :
    (s.outOfRange i a).progEnd = s.progEnd := rfl
@[simp] theorem State.outOfRange_qcfg (s : State) (i : Instr) (a : Nat) :
    (s.outOfRange i a).qcfg = s.qcfg := rfl
@[simp] theorem State.outOfRange_cfg (s : State) (i : Instr) (a : Nat) :
    (s.outOfRange i a).cfg = s.cfg := rfl
@[simp] theorem State.outOfRange_key (s : State) (i : Instr) (a : Nat) :
    (s.outOfRange i a).key = s.key := rfl
@[simp] theorem State.outOfRange_events (s : State) (i : Instr) (a : Nat) :
    (s.outOfRange i a).events = s.events := rfl
@[simp] theorem State.outOfRange_later (s : State) (i : Instr) (a : Nat) :
    (s.outOfRange i a).later = s.later := rfl
@[simp] theorem State.outOfRange_rndIn (s : State) (i : Instr) (a : Nat) :
    (s.outOfRange i a).rndIn = s.rndIn := rfl
@[simp] theorem State.outOfRange_plotIn (s : State) (i : Instr) (a : Nat) :
    (s.outOfRange i a).plotIn = s.plotIn := rfl
@[simp] theorem State.outOfRange_free (s : State) (i : Instr) (a : Nat) :
    (s.outOfRange i a).free = s.free := rfl
@[simp] theorem State.outOfRange_requests (s : State) (i : Instr) (a : Nat) :
    (s.outOfRange i a).requests = s.requests := rfl

/-! ### `keyCancel` -/

@[simp] theorem State.keyCancel_v (s : State) (i : Instr) :
    (s.keyCancel i).v = s.v := rfl
@[simp] theorem State.keyCancel_idx (s : State) (i : Instr) :
    (s.keyCancel i).idx = s.idx := rfl
@[simp] theorem State.keyCancel_pc (s : State) (i : Instr) :
    (s.keyCancel i).pc = s.pc := rfl
@[simp] theorem State.keyCancel_stack (s : State) (i : Instr) :
    (s.keyCancel i).stack = s.stack := rfl
@[simp] theorem State.keyCancel_sp (s : State) (i : Instr) :
    (s.keyCancel i).sp = s.sp := rfl
@[simp] theorem State.keyCancel_mem (s : State) (i : Instr) :
    (s.keyCancel i).mem = s.mem := rfl
@[simp] theorem State.keyCancel_dt (s : State) (i : Instr) :
    (s.keyCancel i).dt = s.dt := rfl
@[simp] theorem State.keyCancel_st (s : State) (i : Instr) :
    (s.keyCancel i).st = s.st := rfl
@[simp] theorem State.keyCancel_run (s : State) (i : Instr) :
    (s.keyCancel i).run = .halted := rfl
@[simp] theorem State.keyCancel_halt (s : State) (i : Instr) :
    (s.keyCancel i).halt = { cause := .keyCancel, pc := s.pc - 2, word := encode i, addr := 0, exit := 0 } := rfl
@[simp] theorem State.keyCancel_progEnd (s : State) (i : Instr) :
    (s.keyCancel i).progEnd = s.progEnd := rfl
@[simp] theorem State.keyCancel_qcfg (s : State) (i : Instr) :
    (s.keyCancel i).qcfg = s.qcfg := rfl
@[simp] theorem State.keyCancel_cfg (s : State) (i : Instr) :
    (s.keyCancel i).cfg = s.cfg := rfl
@[simp] theorem State.keyCancel_key (s : State) (i : Instr) :
    (s.keyCancel i).key = s.key := rfl
@[simp] theorem State.keyCancel_events (s : State) (i : Instr) :
    (s.keyCancel i).events = s.events := rfl
@[simp] theorem State.keyCancel_later (s : State) (i : Instr) :
    (s.keyCancel i).later = s.later := rfl
@[simp] theorem State.keyCancel_rndIn (s : State) (i : Instr) :
    (s.keyCancel i).rndIn = s.rndIn := rfl
@[simp] theorem State.keyCancel_plotIn (s : State) (i : Instr) :
    (s.keyCancel i).plotIn = s.plotIn := rfl
@[simp] theorem State.keyCancel_free (s : State) (i : Instr) :
    (s.keyCancel i).free = s.free := rfl
@[simp] theorem State.keyCancel_requests (s : State) (i : Instr) :
    (s.keyCancel i).requests = s.requests := rfl

/-! ### `advanceI` -/

@[simp] theorem State.advanceI_v (s : State) (c : Nat) :
    (s.advanceI c).v = s.v := by
  unfold State.advanceI; split <;> rfl
@[simp] theorem State.advanceI_idx (s : State) (c : Nat) :
    (s.advanceI c).idx = if s.qcfg.keepI then s.idx else BitVec.ofNat 16 (s.idx.toNat + c) := by
  unfold State.advanceI; split <;> rfl
@[simp] theorem State.advanceI_pc (s : State) (c : Nat) :
    (s.advanceI c).pc = s.pc := by
  unfold State.advanceI; split <;> rfl
@[simp] theorem State.advanceI_stack (s : State) (c : Nat) :
    (s.advanceI c).stack = s.stack := by
  unfold State.advanceI; split <;> rfl
@[simp] theorem State.advanceI_sp (s : State) (c : Nat) :
    (s.advanceI c).sp = s.sp := by
  unfold State.advanceI; split <;> rfl
@[simp] theorem State.advanceI_mem (s : State) (c : Nat) :
    (s.advanceI c).mem = s.mem := by
  unfold State.advanceI; split <;> rfl
@[simp] theorem State.advanceI_dt (s : State) (c : Nat) :
    (s.advanceI c).dt = s.dt := by
  unfold State.advanceI; split <;> rfl
@[simp] theorem State.advanceI_st (s : State) (c : Nat) :
    (s.advanceI c).st = s.st := by
  unfold State.advanceI; split <;> rfl
@[simp] theorem State.advanceI_run (s : State) (c : Nat) :
    (s.advanceI c).run = s.run := by
  unfold State.advanceI; split <;> rfl
@[simp] theorem State.advanceI_halt (s : State) (c : Nat) :
    (s.advanceI c).halt = s.halt := by
  unfold State.advanceI; split <;> rfl
@[simp] theorem State.advanceI_progEnd (s : State) (c : Nat) :
    (s.advanceI c).progEnd = s.progEnd := by
  unfold State.advanceI; split <;> rfl
@[simp] theorem State.advanceI_qcfg (s : State) (c : Nat) :
    (s.advanceI c).qcfg = s.qcfg := by
  unfold State.advanceI; split <;> rfl
@[simp] theorem State.advanceI_cfg (s : State) (c : Nat) :
    (s.advanceI c).cfg = s.cfg := by
  unfold State.advanceI; split <;> rfl
@[simp] theorem State.advanceI_key (s : State) (c : Nat) :
    (s.advanceI c).key = s.key := by
  unfold State.advanceI; split <;> rfl
@[simp] theorem State.advanceI_events (s : State) (c : Nat) :
    (s.advanceI c).events = s.events := by
  unfold State.advanceI; split <;> rfl
@[simp] theorem State.advanceI_later (s : State) (c : Nat) :
    (s.advanceI c).later = s.later := by
  unfold State.advanceI; split <;> rfl
@[simp] theorem State.advanceI_rndIn (s : State) (c : Nat) :
    (s.advanceI c).rndIn = s.rndIn := by
  unfold State.advanceI; split <;> rfl
@[simp] theorem State.advanceI_plotIn (s : State) (c : Nat) :
    (s.advanceI c).plotIn = s.plotIn := by
  unfold State.advanceI; split <;> rfl
@[simp] theorem State.advanceI_free (s : State) (c : Nat) :
    (s.advanceI c).free = s.free := by
  unfold State.advanceI; split <;> rfl
@[simp] theorem State.advanceI_requests (s : State) (c : Nat) :
    (s.advanceI c).requests = s.requests := by
  unfold State.advanceI; split <;> rfl

/-! ### `drawByte` -/

@[simp] theorem State.drawByte_v (s : State) :
    (s.drawByte.2).v = s.v := by
  unfold State.drawByte; split <;> simp_all
@[simp] theorem State.drawByte_idx (s : State) :
    (s.drawByte.2).idx = s.idx := by
  unfold State.drawByte; split <;> simp_all
@[simp] theorem State.drawByte_pc (s : State) :
    (s.drawByte.2).pc = s.pc := by
  unfold State.drawByte; split <;> simp_all
@[simp] theorem State.drawByte_stack (s : State) :
    (s.drawByte.2).stack = s.stack := by
  unfold State.drawByte; split <;> simp_all
@[simp] theorem State.drawByte_sp (s : State) :
    (s.drawByte.2).sp = s.sp := by
  unfold State.drawByte; split <;> simp_all
@[simp] theorem State.drawByte_mem (s : State) :
    (s.drawByte.2).mem = s.mem := by
  unfold State.drawByte; split <;> simp_all
@[simp] theorem State.drawByte_dt (s : State) :
    (s.drawByte.2).dt = s.dt := by
  unfold State.drawByte; split <;> simp_all
@[simp] theorem State.drawByte_st (s : State) :
    (s.drawByte.2).st = s.st := by
  unfold State.drawByte; split <;> simp_all
@[simp] theorem State.drawByte_run (s : State) :
    (s.drawByte.2).run = s.run := by
  unfold State.drawByte; split <;> simp_all
@[simp] theorem State.drawByte_halt (s : State) :
    (s.drawByte.2).halt = s.halt := by
  unfold State.drawByte; split <;> simp_all
@[simp] theorem State.drawByte_progEnd (s : State) :
    (s.drawByte.2).progEnd = s.progEnd := by
  unfold State.drawByte; split <;> simp_all
@[simp] theorem State.drawByte_qcfg (s : State) :
    (s.drawByte.2).qcfg = s.qcfg := by
  unfold State.drawByte; split <;> simp_all
@[simp] theorem State.drawByte_cfg (s : State) :
    (s.drawByte.2).cfg = s.cfg := by
  unfold State.drawByte; split <;> simp_all
@[simp] theorem State.drawByte_key (s : State) :
    (s.drawByte.2).key = s.key := by
  unfold State.drawByte; split <;> simp_all
@[simp] theorem State.drawByte_events (s : State) :
    (s.drawByte.2).events = s.events := by
  unfold State.drawByte; split <;> simp_all
@[simp] theorem State.drawByte_later (s : State) :
    (s.drawByte.2).later = s.later := by
  unfold State.drawByte; split <;> simp_all
@[simp] theorem State.drawByte_rndIn (s : State) :
    (s.drawByte.2).rndIn = s.rndIn.tail := by
  unfold State.drawByte; split <;> simp_all
@[simp] theorem State.drawByte_plotIn (s : State) :
    (s.drawByte.2).plotIn = s.plotIn := by
  unfold State.drawByte; split <;> simp_all
@[simp] theorem State.drawByte_free (s : State) :
    (s.drawByte.2).free = s.free + (1 - s.rndIn.length) := by
  unfold State.drawByte; split <;> simp_all
@[simp] theorem State.drawByte_requests (s : State) :
    (s.drawByte.2).requests = s.requests := by
  unfold State.drawByte; split <;> simp_all

/-! ### `takeAnswer` -/

@[simp] theorem State.takeAnswer_v (s : State) :
    (s.takeAnswer.2).v = s.v := by
  unfold State.takeAnswer; split <;> simp_all
@[simp] theorem State.takeAnswer_idx (s : State) :
    (s.takeAnswer.2).idx = s.idx := by
  unfold State.takeAnswer; split <;> simp_all
@[simp] theorem State.takeAnswer_pc (s : State) :
    (s.takeAnswer.2).pc = s.pc := by
  unfold State.takeAnswer; split <;> simp_all
@[simp] theorem State.takeAnswer_stack (s : State) :
    (s.takeAnswer.2).stack = s.stack := by
  unfold State.takeAnswer; split <;> simp_all
@[simp] theorem State.takeAnswer_sp (s : State) :
    (s.takeAnswer.2).sp = s.sp := by
  unfold State.takeAnswer; split <;> simp_all
@[simp] theorem State.takeAnswer_mem (s : State) :
    (s.takeAnswer.2).mem = s.mem := by
  unfold State.takeAnswer; split <;> simp_all
@[simp] theorem State.takeAnswer_dt (s : State) :
    (s.takeAnswer.2).dt = s.dt := by
  unfold State.takeAnswer; split <;> simp_all
@[simp] theorem State.takeAnswer_st (s : State) :
    (s.takeAnswer.2).st = s.st := by
  unfold State.takeAnswer; split <;> simp_all
@[simp] theorem State.takeAnswer_run (s : State) :
    (s.takeAnswer.2).run = s.run := by
  unfold State.takeAnswer; split <;> simp_all
@[simp] theorem State.takeAnswer_halt (s : State) :
    (s.takeAnswer.2).halt = s.halt := by
  unfold State.takeAnswer; split <;> simp_all
@[simp] theorem State.takeAnswer_progEnd (s : State) :
    (s.takeAnswer.2).progEnd = s.progEnd := by
  unfold State.takeAnswer; split <;> simp_all
@[simp] theorem State.takeAnswer_qcfg (s : State) :
    (s.takeAnswer.2).qcfg = s.qcfg := by
  unfold State.takeAnswer; split <;> simp_all
@[simp] theorem State.takeAnswer_cfg (s : State) :
    (s.takeAnswer.2).cfg = s.cfg := by
  unfold State.takeAnswer; split <;> simp_all
@[simp] theorem State.takeAnswer_key (s : State) :
    (s.takeAnswer.2).key = s.key := by
  unfold State.takeAnswer; split <;> simp_all
@[simp] theorem State.takeAnswer_events (s : State) :
    (s.takeAnswer.2).events = s.events := by
  unfold State.takeAnswer; split <;> simp_all
@[simp] theorem State.takeAnswer_later (s : State) :
    (s.takeAnswer.2).later = s.later := by
  unfold State.takeAnswer; split <;> simp_all
@[simp] theorem State.takeAnswer_rndIn (s : State) :
    (s.takeAnswer.2).rndIn = s.rndIn := by
  unfold State.takeAnswer; split <;> simp_all
@[simp] theorem State.takeAnswer_plotIn (s : State) :
    (s.takeAnswer.2).plotIn = s.plotIn.tail := by
  unfold State.takeAnswer; split <;> simp_all
@[simp] theorem State.takeAnswer_free (s : State) :
    (s.takeAnswer.2).free = s.free + (1 - s.plotIn.length) := by
  unfold State.takeAnswer; split <;> simp_all
@[simp] theorem State.takeAnswer_requests (s : State) :
    (s.takeAnswer.2).requests = s.requests := by
  unfold State.takeAnswer; split <;> simp_all

/-! ### `plotXor` -/

@[simp] theorem State.plotXor_v (s : State) (x y : Nat) :
    ((s.plotXor x y).2).v = s.v := by
  simp [State.plotXor]
@[simp] theorem State.plotXor_idx (s : State) (x y : Nat) :
    ((s.plotXor x y).2).idx = s.idx := by
  simp [State.plotXor]
@[simp] theorem State.plotXor_pc (s : State) (x y : Nat) :
    ((s.plotXor x y).2).pc = s.pc := by
  simp [State.plotXor]
@[simp] theorem State.plotXor_stack (s : State) (x y : Nat) :
    ((s.plotXor x y).2).stack = s.stack := by
  simp [State.plotXor]
@[simp] theorem State.plotXor_sp (s : State) (x y : Nat) :
    ((s.plotXor x y).2).sp = s.sp := by
  simp [State.plotXor]
@[simp] theorem State.plotXor_mem (s : State) (x y : Nat) :
    ((s.plotXor x y).2).mem = s.mem := by
  simp [State.plotXor]
@[simp] theorem State.plotXor_dt (s : State) (x y : Nat) :
    ((s.plotXor x y).2).dt = s.dt := by
  simp [State.plotXor]
@[simp] theorem State.plotXor_st (s : State) (x y : Nat) :
    ((s.plotXor x y).2).st = s.st := by
  simp [State.plotXor]
@[simp] theorem State.plotXor_run (s : State) (x y : Nat) :
    ((s.plotXor x y).2).run = s.run := by
  simp [State.plotXor]
@[simp] theorem State.plotXor_halt (s : State) (x y : Nat) :
    ((s.plotXor x y).2).halt = s.halt := by
  simp [State.plotXor]
@[simp] theorem State.plotXor_progEnd (s : State) (x y : Nat) :
    ((s.plotXor x y).2).progEnd = s.progEnd := by
  simp [State.plotXor]
@[simp] theorem State.plotXor_qcfg (s : State) (x y : Nat) :
    ((s.plotXor x y).2).qcfg = s.qcfg := by
  simp [State.plotXor]
@[simp] theorem State.plotXor_cfg (s : State) (x y : Nat) :
    ((s.plotXor x y).2).cfg = s.cfg := by
  simp [State.plotXor]
@[simp] theorem State.plotXor_key (s : State) (x y : Nat) :
    ((s.plotXor x y).2).key = s.key := by
  simp [State.plotXor]
@[simp] theorem State.plotXor_events (s : State) (x y : Nat) :
    ((s.plotXor x y).2).events = s.events := by
  simp [State.plotXor]
@[simp] theorem State.plotXor_later (s : State) (x y : Nat) :
    ((s.plotXor x y).2).later = s.later := by
  simp [State.plotXor]
@[simp] theorem State.plotXor_rndIn (s : State) (x y : Nat) :
    ((s.plotXor x y).2).rndIn = s.rndIn := by
  simp [State.plotXor]
@[simp] theorem State.plotXor_plotIn (s : State) (x y : Nat) :
    ((s.plotXor x y).2).plotIn = s.plotIn.tail := by
  simp [State.plotXor]
@[simp] theorem State.plotXor_free (s : State) (x y : Nat) :
    ((s.plotXor x y).2).free = s.free + (1 - s.plotIn.length) := by
  simp [State.plotXor]
@[simp] theorem State.plotXor_requests (s : State) (x y : Nat) :
    ((s.plotXor x y).2).requests = s.requests ++ [.plotXor x y] := by
  simp [State.plotXor]

/-! ### `clearCore` -/

@[simp] theorem State.clearCore_v (s : State) (q : QCfg) :
    (s.clearCore q).v = Vector.replicate 16 0 := rfl
@[simp] theorem State.clearCore_idx (s : State) (q : QCfg) :
    (s.clearCore q).idx = 0 := rfl
@[simp] theorem State.clearCore_pc (s : State) (q : QCfg) :
    (s.clearCore q).pc = BitVec.ofNat 16 s.cfg.loadAddr := rfl
@[simp] theorem State.clearCore_stack (s : State) (q : QCfg) :
    (s.clearCore q).stack = Vector.replicate 16 0 := rfl
@[simp] theorem State.clearCore_sp (s : State) (q : QCfg) :
    (s.clearCore q).sp = 0 := rfl
@[simp] theorem State.clearCore_mem (s : State) (q : QCfg) :
    (s.clearCore q).mem = [] := rfl
@[simp] theorem State.clearCore_dt (s : State) (q : QCfg) :
    (s.clearCore q).dt = 0 := rfl
@[simp] theorem State.clearCore_st (s : State) (q : QCfg) :
    (s.clearCore q).st = 0 := rfl
@[simp] theorem State.clearCore_run (s : State) (q : QCfg) :
    (s.clearCore q).run = .running := rfl
@[simp] theorem State.clearCore_halt (s : State) (q : QCfg) :
    (s.clearCore q).halt = HaltRecord.zero := rfl
@[simp] theorem State.clearCore_progEnd (s : State) (q : QCfg) :
    (s.clearCore q).progEnd = BitVec.ofNat 17 s.cfg.loadAddr := rfl
@[simp] theorem State.clearCore_qcfg (s : State) (q : QCfg) :
    (s.clearCore q).qcfg = q := rfl
@[simp] theorem State.clearCore_cfg (s : State) (q : QCfg) :
    (s.clearCore q).cfg = s.cfg := rfl
@[simp] theorem State.clearCore_key (s : State) (q : QCfg) :
    (s.clearCore q).key = s.key := rfl
@[simp] theorem State.clearCore_events (s : State) (q : QCfg) :
    (s.clearCore q).events = s.events := rfl
@[simp] theorem State.clearCore_later (s : State) (q : QCfg) :
    (s.clearCore q).later = s.later := rfl
@[simp] theorem State.clearCore_rndIn (s : State) (q : QCfg) :
    (s.clearCore q).rndIn = s.rndIn := rfl
@[simp] theorem State.clearCore_plotIn (s : State) (q : QCfg) :
    (s.clearCore q).plotIn = s.plotIn := rfl
@[simp] theorem State.clearCore_free (s : State) (q : QCfg) :
    (s.clearCore q).free = s.free := rfl
@[simp] theorem State.clearCore_requests (s : State) (q : QCfg) :
    (s.clearCore q).requests = s.requests := rfl

/-! ### `popDue` -/

@[simp] theorem State.popDue_v (s : State) :
    (s.popDue).v = s.v := rfl
@[simp] theorem State.popDue_idx (s : State) :
    (s.popDue).idx = s.idx := rfl
@[simp] theorem State.popDue_pc (s : State) :
    (s.popDue).pc = s.pc := rfl
@[simp] theorem State.popDue_stack (s : State) :
    (s.popDue).stack = s.stack := rfl
@[simp] theorem State.popDue_sp (s : State) :
    (s.popDue).sp = s.sp := rfl
@[simp] theorem State.popDue_mem (s : State) :
    (s.popDue).mem = s.mem := rfl
@[simp] theorem State.popDue_dt (s : State) :
    (s.popDue).dt = s.dt := rfl
@[simp] theorem State.popDue_st (s : State) :
    (s.popDue).st = s.st := rfl
@[simp] theorem State.popDue_run (s : State) :
    (s.popDue).run = s.run := rfl
@[simp] theorem State.popDue_halt (s : State) :
    (s.popDue).halt = s.halt := rfl
@[simp] theorem State.popDue_progEnd (s : State) :
    (s.popDue).progEnd = s.progEnd := rfl
@[simp] theorem State.popDue_qcfg (s : State) :
    (s.popDue).qcfg = s.qcfg := rfl
@[simp] theorem State.popDue_cfg (s : State) :
    (s.popDue).cfg = s.cfg := rfl
@[simp] theorem State.popDue_key (s : State) :
    (s.popDue).key = s.key := rfl
@[simp] theorem State.popDue_events (s : State) :
    (s.popDue).events = s.events.tail := rfl
@[simp] theorem State.popDue_rndIn (s : State) :
    (s.popDue).rndIn = s.rndIn := rfl
@[simp] theorem State.popDue_plotIn (s : State) :
    (s.popDue).plotIn = s.plotIn := rfl
@[simp] theorem State.popDue_free (s : State) :
    (s.popDue).free = s.free := rfl
@[simp] theorem State.popDue_requests (s : State) :
    (s.popDue).requests = s.requests := rfl
@[simp] theorem State.popDue_later_nil {s : State} (h : s.events = []) :
    (s.popDue).later = s.later.next := by simp only [State.popDue, h]
@[simp] theorem State.popDue_later_cons {s : State} {e : Event} {es : List Event}
    (h : s.events = e :: es) : (s.popDue).later = s.later := by simp only [State.popDue, h]

end Sys2Proof.Machine
end

