-- ==== Sys2Proof/Laws/Registers.lean ====
section
/-! SUPPORT. Reading general registers after writing them. -/

namespace Sys2Proof.Machine

/-- A register depends only on the register file. -/
theorem State.reg_congr {s t : State} (h : t.v = s.v) (j : RegNo) : t.reg j = s.reg j := by
  unfold State.reg; simp [h]

/-- Reading after `V[x] <- b`. -/
theorem State.reg_setReg (s : State) (x j : RegNo) (b : Byte) :
    (s.setReg x b).reg j = if j = x then b else s.reg j := by
  simp only [State.reg, State.setReg, Vector.getElem_set, BitVec.toNat_inj, eq_comm]

@[simp] theorem State.reg_setReg_self (s : State) (x : RegNo) (b : Byte) : (s.setReg x b).reg x = b := by
  simp [State.reg_setReg]

@[simp] theorem State.reg_setReg_of_ne (s : State) {x j : RegNo} (b : Byte) (h : j ≠ x) :
    (s.setReg x b).reg j = s.reg j := by
  simp [State.reg_setReg, h]

/-- The flag write comes last, so it wins over the result (10_state.md R32). -/
theorem State.reg_setResultAndFlag (s : State) (x j : RegNo) (b c : Byte) :
    (s.setResultAndFlag x b c).reg j = if j = 15 then c else if j = x then b else s.reg j := by
  simp [State.setResultAndFlag, State.reg_setReg, flagReg]

@[simp] theorem State.reg_setByte (s : State) (a : Nat) (b : Byte) (j : RegNo) : (s.setByte a b).reg j = s.reg j := rfl

@[simp] theorem State.reg_request (s : State) (r : Request) (j : RegNo) : (s.request r).reg j = s.reg j := rfl

@[simp] theorem State.reg_haltIn (s : State) (i : Instr) (k : Cause) (a : Nat) (e : Byte) (j : RegNo) :
    (s.haltIn i k a e).reg j = s.reg j := rfl

@[simp] theorem State.reg_outOfRange (s : State) (i : Instr) (a : Nat) (j : RegNo) :
    (s.outOfRange i a).reg j = s.reg j := rfl

@[simp] theorem State.reg_advanceI (s : State) (c : Nat) (j : RegNo) : (s.advanceI c).reg j = s.reg j :=
  State.reg_congr (by simp) j

@[simp] theorem State.reg_drawByte (s : State) (j : RegNo) : s.drawByte.2.reg j = s.reg j :=
  State.reg_congr (by simp) j

@[simp] theorem State.reg_plotXor (s : State) (x y : Nat) (j : RegNo) : (s.plotXor x y).2.reg j = s.reg j :=
  State.reg_congr (by simp) j

/-- `setReg` changes only the register file. -/
theorem State.setReg_eq (s : State) (x : RegNo) (b : Byte) : s.setReg x b = { s with v := (s.setReg x b).v } := rfl

/-- `setResultAndFlag` changes only the register file. -/
theorem State.setResultAndFlag_eq (s : State) (x : RegNo) (b c : Byte) :
    s.setResultAndFlag x b c = { s with v := (s.setResultAndFlag x b c).v } := rfl

end Sys2Proof.Machine
end

