-- ==== Sys2Proof/Laws/Memory.lean ====
section
/-! SUPPORT. Memory: read after write, and that every memory operation keeps the canonical form. -/

namespace Sys2Proof.Machine

theorem Memory.find_insertCell (a b : Nat) (v : Byte) (m : Memory) :
    Memory.find (Memory.insertCell a v m) b = if b = a then some v else Memory.find m b := by
  induction m with
  | nil => simp [Memory.insertCell, Memory.find]
  | cons e m ih =>
    obtain ⟨c, u⟩ := e
    simp only [Memory.insertCell]
    split
    · simp [Memory.find]
    · split
      · subst c; simp only [Memory.find]; split <;> simp_all
      · simp only [Memory.find, ih]; split <;> split <;> simp_all

theorem Memory.find_eraseCell (a b : Nat) (m : Memory) :
    Memory.find (Memory.eraseCell a m) b = if b = a then none else Memory.find m b := by
  induction m with
  | nil => simp [Memory.eraseCell, Memory.find]
  | cons e m ih =>
    obtain ⟨c, u⟩ := e
    simp only [Memory.eraseCell]
    split
    · subst c; simp only [ih, Memory.find]; split <;> simp_all
    · simp only [Memory.find, ih]; split <;> split <;> simp_all

/-- What a byte of memory reads as after one write, for any list of cells. -/
theorem Memory.find_write (c : Config) (m : Memory) (a b : Nat) (v : Byte) :
    (Memory.find (Memory.write c m a v) b).getD (initByte c b) =
      if b = a then v else (Memory.find m b).getD (initByte c b) := by
  unfold Memory.write
  split
  · rw [Memory.find_eraseCell]; split <;> simp_all
  · rw [Memory.find_insertCell]; split <;> simp_all

/-- Reading one byte after `MEM[a] <- v`. -/
theorem State.byteAt_setByte (s : State) (a b : Nat) (v : Byte) :
    (s.setByte a v).byteAt b = if b = a then v else s.byteAt b :=
  Memory.find_write s.cfg s.mem a b v

/-- A byte depends only on the memory list and the parameters. -/
theorem State.byteAt_congr {s t : State} (hm : t.mem = s.mem) (hc : t.cfg = s.cfg) (a : Nat) :
    t.byteAt a = s.byteAt a := by
  unfold State.byteAt; rw [hm, hc]

/-- Every entry of a list of cells lies above `a`. -/
theorem Memory.all_insertCell {a b : Nat} {v : Byte} {m : Memory} (hb : b < a)
    (h : m.all (fun e => decide (b < e.1)) = true) :
    (Memory.insertCell a v m).all (fun e => decide (b < e.1)) = true := by
  induction m with
  | nil => simp [Memory.insertCell, hb]
  | cons e m ih =>
    obtain ⟨c, u⟩ := e
    simp only [List.all_cons, Bool.and_eq_true, decide_eq_true_eq] at h
    simp only [Memory.insertCell]
    split
    · simpa [hb] using h
    · split
      · simpa [hb] using h.2
      · simpa [h.1] using ih h.2

theorem Memory.all_eraseCell {a b : Nat} {m : Memory} (h : m.all (fun e => decide (b < e.1)) = true) :
    (Memory.eraseCell a m).all (fun e => decide (b < e.1)) = true := by
  induction m with
  | nil => simp [Memory.eraseCell]
  | cons e m ih =>
    obtain ⟨c, u⟩ := e
    simp only [List.all_cons, Bool.and_eq_true, decide_eq_true_eq] at h
    simp only [Memory.eraseCell]
    split
    · exact ih h.2
    · simpa [h.1] using ih h.2

theorem Memory.all_lt_trans {a b : Nat} {m : Memory} (hab : a < b) (h : m.all (fun e => decide (b < e.1)) = true) :
    m.all (fun e => decide (a < e.1)) = true := by
  simp only [List.all_eq_true, decide_eq_true_eq] at h ⊢
  exact fun e he => Nat.lt_trans hab (h e he)

theorem Memory.wf_insertCell {c : Config} {a : Nat} {v : Byte} {m : Memory} (ha : a < c.memSize)
    (hv : v ≠ initByte c a) (h : Memory.wf c m = true) : Memory.wf c (Memory.insertCell a v m) = true := by
  induction m with
  | nil => simp [Memory.insertCell, Memory.wf, ha, hv]
  | cons e m ih =>
    obtain ⟨b, u⟩ := e
    have h0 := h
    simp only [Memory.wf, Bool.and_eq_true, decide_eq_true_eq] at h
    obtain ⟨⟨⟨hb, hu⟩, hall⟩, hm⟩ := h
    simp only [Memory.insertCell]
    split
    · rename_i hab
      simp only [Memory.wf, List.all_cons, Bool.and_eq_true, decide_eq_true_eq]
      exact ⟨⟨⟨ha, hv⟩, hab, Memory.all_lt_trans hab hall⟩, ⟨⟨hb, hu⟩, hall⟩, hm⟩
    · split
      · subst b
        simp only [Memory.wf, Bool.and_eq_true, decide_eq_true_eq]
        exact ⟨⟨⟨ha, hv⟩, hall⟩, hm⟩
      · simp only [Memory.wf, Bool.and_eq_true, decide_eq_true_eq]
        exact ⟨⟨⟨hb, hu⟩, Memory.all_insertCell (by omega) hall⟩, ih hm⟩

theorem Memory.wf_eraseCell {c : Config} {a : Nat} {m : Memory} (h : Memory.wf c m = true) :
    Memory.wf c (Memory.eraseCell a m) = true := by
  induction m with
  | nil => simp [Memory.eraseCell, Memory.wf]
  | cons e m ih =>
    obtain ⟨b, u⟩ := e
    simp only [Memory.wf, Bool.and_eq_true, decide_eq_true_eq] at h
    obtain ⟨⟨⟨hb, hu⟩, hall⟩, hm⟩ := h
    simp only [Memory.eraseCell]
    split
    · exact ih hm
    · simp only [Memory.wf, Bool.and_eq_true, decide_eq_true_eq]
      exact ⟨⟨⟨hb, hu⟩, Memory.all_eraseCell hall⟩, ih hm⟩

/-- A write below `MEM_SIZE` keeps the canonical form. -/
theorem Memory.wf_write {c : Config} {a : Nat} {v : Byte} {m : Memory} (ha : a < c.memSize)
    (h : Memory.wf c m = true) : Memory.wf c (Memory.write c m a v) = true := by
  unfold Memory.write
  split
  · exact Memory.wf_eraseCell h
  · exact Memory.wf_insertCell ha (by assumption) h

/-- Loading bytes that end below `MEM_SIZE` keeps the canonical form. -/
theorem Memory.wf_load {c : Config} {bs : List Byte} {a : Nat} {m : Memory} (ha : a + bs.length ≤ c.memSize)
    (h : Memory.wf c m = true) : Memory.wf c (Memory.load c a bs m) = true := by
  induction bs generalizing a m with
  | nil => exact h
  | cons b bs ih =>
    simp only [List.length_cons] at ha
    exact ih (by omega) (Memory.wf_write (by omega) h)

/-- What a byte of memory reads as after a load. -/
theorem Memory.find_load (c : Config) (bs : List Byte) (a b : Nat) (m : Memory) :
    (Memory.find (Memory.load c a bs m) b).getD (initByte c b) =
      if h : a ≤ b ∧ b < a + bs.length then bs[b - a]'(by omega)
      else (Memory.find m b).getD (initByte c b) := by
  induction bs generalizing a m with
  | nil => simp only [Memory.load, List.length_nil]; rw [dif_neg (by omega)]
  | cons v bs ih =>
    simp only [Memory.load, ih, Memory.find_write, List.length_cons]
    by_cases h1 : b = a
    · subst h1; rw [dif_neg (by omega), dif_pos (by omega)]; simp
    · by_cases h2 : a + 1 ≤ b ∧ b < a + 1 + bs.length
      · rw [dif_pos h2, dif_pos (by omega)]
        have : b - a = (b - (a + 1)) + 1 := by omega
        simp [this]
      · rw [dif_neg h2, dif_neg (by omega), if_neg h1]

/-- A canonical list holds no entry equal to what its address reads as by default. -/
theorem Memory.find_ne_initByte {c : Config} {m : Memory} {a : Nat} {v : Byte} (h : Memory.wf c m = true)
    (hf : Memory.find m a = some v) : v ≠ initByte c a ∧ a < c.memSize := by
  induction m with
  | nil => simp [Memory.find] at hf
  | cons e m ih =>
    obtain ⟨b, u⟩ := e
    simp only [Memory.wf, Bool.and_eq_true, decide_eq_true_eq] at h
    simp only [Memory.find] at hf
    split at hf
    · subst b; cases hf; exact ⟨h.1.1.2, h.1.1.1⟩
    · exact ih h.2 hf

theorem Memory.find_none_of_all {a : Nat} {m : Memory} (h : m.all (fun e => decide (a < e.1)) = true) :
    Memory.find m a = none := by
  induction m with
  | nil => rfl
  | cons e m ih =>
    obtain ⟨b, u⟩ := e
    simp only [List.all_cons, Bool.and_eq_true, decide_eq_true_eq] at h
    simp only [Memory.find]
    rw [if_neg (by omega)]
    exact ih h.2

/-- Canonical memories that read the same everywhere are the same list. -/
theorem Memory.ext_of_wf {c : Config} {m n : Memory} (hm : Memory.wf c m = true) (hn : Memory.wf c n = true)
    (h : ∀ a, (Memory.find m a).getD (initByte c a) = (Memory.find n a).getD (initByte c a)) : m = n := by
  have hfind : ∀ a, Memory.find m a = Memory.find n a := by
    intro a
    have ha := h a
    cases hma : Memory.find m a with
    | none =>
      cases hna : Memory.find n a with
      | none => rfl
      | some v => simp only [hma, hna, Option.getD] at ha; exact absurd ha.symm (Memory.find_ne_initByte hn hna).1
    | some u =>
      cases hna : Memory.find n a with
      | none => simp only [hma, hna, Option.getD] at ha; exact absurd ha (Memory.find_ne_initByte hm hma).1
      | some v => simpa [hma, hna] using ha
  clear h
  induction m generalizing n with
  | nil =>
    cases n with
    | nil => rfl
    | cons e n => have := hfind e.1; simp [Memory.find] at this
  | cons d m ih =>
    obtain ⟨a, u⟩ := d
    cases n with
    | nil => have := hfind a; simp [Memory.find] at this
    | cons e n =>
      obtain ⟨b, v⟩ := e
      simp only [Memory.wf, Bool.and_eq_true, decide_eq_true_eq] at hm hn
      have hab : a = b := by
        rcases Nat.lt_trichotomy a b with hlt | heq | hgt
        · have := hfind a
          have hna := Memory.find_none_of_all (Memory.all_lt_trans hlt hn.1.2)
          simp [Memory.find, hna, Nat.ne_of_lt hlt] at this
        · exact heq
        · have := hfind b
          have hmb := Memory.find_none_of_all (Memory.all_lt_trans hgt hm.1.2)
          simp [Memory.find, hmb, Nat.ne_of_lt hgt] at this
      subst hab
      have huv : u = v := by simpa [Memory.find] using hfind a
      subst huv
      have : m = n := ih hm.2 hn.2 fun x => by
        by_cases hx : x = a
        · subst hx
          rw [Memory.find_none_of_all hm.1.2, Memory.find_none_of_all hn.1.2]
        · simpa [Memory.find, hx] using hfind x
      rw [this]

end Sys2Proof.Machine
end

