-- ==== Sys2Proof/Laws/Control.lean ====
section
/-! SUPPORT. Everything a control transfer can do (spec 41_control_flow.md R130 to R134). -/

namespace Sys2Proof.Machine

theorem inRegion_iff (c : Config) (a : Nat) : inRegion c a = true ↔ c.loadAddr ≤ a ∧ a < c.memSize := by
  simp [inRegion]

theorem State.jumpTo_cases (s : State) (i : Instr) (a : Nat) :
    ((s.cfg.loadAddr ≤ a ∧ a < s.cfg.memSize) ∧ s.jumpTo i a = { s with pc := BitVec.ofNat 16 a }) ∨
    (¬(s.cfg.loadAddr ≤ a ∧ a < s.cfg.memSize) ∧ s.jumpTo i a = s.outOfRange i a) := by
  unfold State.jumpTo
  by_cases h : inRegion s.cfg a = true
  · exact .inl ⟨(inRegion_iff _ _).1 h, if_pos h⟩
  · exact .inr ⟨fun h' => h ((inRegion_iff _ _).2 h'), if_neg h⟩

theorem State.skipIf_cases (s : State) (i : Instr) (c : Bool) :
    (c = false ∧ s.skipIf i c = s) ∨
    (c = true ∧ (s.cfg.loadAddr ≤ s.pc.toNat + 2 ∧ s.pc.toNat + 2 < s.cfg.memSize) ∧
      s.skipIf i c = { s with pc := BitVec.ofNat 16 (s.pc.toNat + 2) }) ∨
    (c = true ∧ ¬(s.cfg.loadAddr ≤ s.pc.toNat + 2 ∧ s.pc.toNat + 2 < s.cfg.memSize) ∧
      s.skipIf i c = s.outOfRange i (s.pc.toNat + 2)) := by
  unfold State.skipIf
  cases c
  · exact .inl ⟨rfl, rfl⟩
  · rcases s.jumpTo_cases i (s.pc.toNat + 2) with ⟨h, e⟩ | ⟨h, e⟩
    · exact .inr (.inl ⟨rfl, h, e⟩)
    · exact .inr (.inr ⟨rfl, h, e⟩)

theorem State.callTo_cases (s : State) (i : Instr) (a : Nat) :
    (s.sp.val = 16 ∧ s.callTo i a = s.haltIn i .stackOverflow a 0) ∨
    (s.sp.val < 16 ∧ ¬(s.cfg.loadAddr ≤ a ∧ a < s.cfg.memSize) ∧ s.callTo i a = s.outOfRange i a) ∨
    (∃ h : s.sp.val < 16, (s.cfg.loadAddr ≤ a ∧ a < s.cfg.memSize) ∧
      s.callTo i a = { s with
        stack := s.stack.set s.sp.val s.pc h
        sp := ⟨s.sp.val + 1, Nat.add_lt_add_right h 1⟩
        pc := BitVec.ofNat 16 a }) := by
  unfold State.callTo
  have := s.sp.isLt
  split
  · rename_i h
    by_cases hr : inRegion s.cfg a = true
    · exact .inr (.inr ⟨h, (inRegion_iff _ _).1 hr, by rw [if_pos hr]⟩)
    · exact .inr (.inl ⟨h, fun h' => hr ((inRegion_iff _ _).2 h'), by rw [if_neg hr]⟩)
  · exact .inl ⟨by omega, rfl⟩

theorem State.returnFrom_cases (s : State) (i : Instr) :
    (s.sp.val = 0 ∧ s.returnFrom i = s.haltIn i .stackUnderflow 0 0) ∨
    (∃ (k : Nat) (h : k < 16), s.sp.val = k + 1 ∧
      s.returnFrom i = { s with sp := ⟨k, by omega⟩, pc := s.stack[k] }) := by
  unfold State.returnFrom
  have := s.sp.isLt
  split
  · exact .inl ⟨by assumption, rfl⟩
  · refine .inr ⟨s.sp.val - 1, by omega, by omega, rfl⟩

end Sys2Proof.Machine
end

