-- ==== Sys2Proof/Laws/Blocks.lean ====
section
/-! SUPPORT. Everything a run of byte stores or loads can do (spec 43_memory_block.md R183 to R188; 20_memory.md R73,
R74, R86). -/

namespace Sys2Proof.Machine

/-! ## One access -/

/-- The effective address, as a sum (20_memory.md R79). -/
theorem State.dataAddr_eq (s : State) (k : Nat) : s.dataAddr k = s.idx.toNat + k := rfl

theorem State.readByte_of_lt {s : State} {a : Nat} (h : a < s.cfg.memSize) : s.readByte a = some (s.byteAt a) :=
  if_pos h

theorem State.readByte_of_ge {s : State} {a : Nat} (h : s.cfg.memSize ≤ a) : s.readByte a = none :=
  if_neg (by omega)

theorem State.writeByte_of_lt {s : State} {a : Nat} {b : Byte} (h : a < s.cfg.memSize) :
    s.writeByte a b = some (s.setByte a b) := if_pos h

theorem State.writeByte_of_ge {s : State} {a : Nat} {b : Byte} (h : s.cfg.memSize ≤ a) : s.writeByte a b = none :=
  if_neg (by omega)

@[simp] theorem State.byteAt_setReg (s : State) (x : RegNo) (b : Byte) (a : Nat) :
    (s.setReg x b).byteAt a = s.byteAt a := rfl

/-! ## A run of stores -/

/-- Only memory changes. -/
theorem storeRun_frame (bs : List Byte) (a : Nat) (s : State) :
    (storeRun a bs s).1 = { s with mem := (storeRun a bs s).1.mem } := by
  induction bs generalizing a s with
  | nil => rfl
  | cons b bs ih =>
    simp only [storeRun, State.writeByte]
    split
    · rfl
    · rename_i s' h
      split at h
      · cases h; rw [ih]; rfl
      · cases h

/-- What every byte reads as: the stored bytes below `MEM_SIZE`, the rest as before. -/
theorem storeRun_byteAt (bs : List Byte) (a : Nat) (s : State) (x : Nat) :
    (storeRun a bs s).1.byteAt x =
      if h : a ≤ x ∧ x < a + bs.length ∧ x < s.cfg.memSize then bs[x - a]'(by omega) else s.byteAt x := by
  induction bs generalizing a s with
  | nil => simp only [storeRun, List.length_nil]; rw [dif_neg (by omega)]
  | cons b bs ih =>
    simp only [storeRun, State.writeByte, List.length_cons]
    by_cases ha : a < s.cfg.memSize
    · simp only [ha, if_true, ih, State.setByte_cfg, State.byteAt_setByte]
      by_cases hx : x = a
      · subst hx
        rw [dif_neg (by omega), dif_pos ⟨by omega, by omega, ha⟩]; simp
      · by_cases hr : a + 1 ≤ x ∧ x < a + 1 + bs.length ∧ x < s.cfg.memSize
        · rw [dif_pos hr, dif_pos ⟨by omega, by omega, hr.2.2⟩]
          have : x - a = (x - (a + 1)) + 1 := by omega
          simp [this]
        · rw [dif_neg hr, dif_neg (by omega), if_neg hx]
    · simp only [ha, if_false]
      rw [dif_neg (by omega)]

/-- It ends without an address out of range when all are in range. -/
theorem storeRun_all {bs : List Byte} {a : Nat} {s : State} (h : ∀ k, k < bs.length → a + k < s.cfg.memSize) :
    (storeRun a bs s).2 = none := by
  induction bs generalizing a s with
  | nil => rfl
  | cons b bs ih =>
    simp only [List.length_cons] at h
    have h0 : a < s.cfg.memSize := by simpa using h 0 (by omega)
    simp only [storeRun, State.writeByte_of_lt h0]
    refine ih fun k hk => ?_
    have := h (k + 1) (by omega)
    simp only [State.setByte_cfg]; omega

/-- It stops at the first address out of range. -/
theorem storeRun_first {bs : List Byte} {a k : Nat} {s : State} (hk : k < bs.length)
    (hout : s.cfg.memSize ≤ a + k) (hin : ∀ j, j < k → a + j < s.cfg.memSize) :
    (storeRun a bs s).2 = some (a + k) := by
  induction bs generalizing a k s with
  | nil => simp at hk
  | cons b bs ih =>
    simp only [List.length_cons] at hk
    cases k with
    | zero => simp only [storeRun, State.writeByte_of_ge (s := s) (a := a) (b := b) (by omega)]; simp
    | succ k =>
      have h0 : a < s.cfg.memSize := by simpa using hin 0 (by omega)
      simp only [storeRun, State.writeByte_of_lt h0]
      rw [ih (k := k) (by omega) (by simp only [State.setByte_cfg]; omega)
        (fun j hj => by have := hin (j + 1) (by omega); simp only [State.setByte_cfg]; omega)]
      congr 1; omega

/-- It keeps the canonical form. -/
theorem storeRun_wf {bs : List Byte} {a : Nat} {s : State} (h : Memory.wf s.cfg s.mem = true) :
    Memory.wf s.cfg (storeRun a bs s).1.mem = true := by
  induction bs generalizing a s with
  | nil => exact h
  | cons b bs ih =>
    simp only [storeRun, State.writeByte]
    by_cases ha : a < s.cfg.memSize
    · simp only [ha, if_true]
      exact ih (s := s.setByte a b) (Memory.wf_write ha h)
    · simpa only [ha, if_false] using h

/-! ## A run of loads -/

/-- Only the register file changes. -/
theorem loadRun_frame (xs : List RegNo) (a : Nat) (s : State) :
    (loadRun a xs s).1 = { s with v := (loadRun a xs s).1.v } := by
  induction xs generalizing a s with
  | nil => rfl
  | cons x xs ih =>
    simp only [loadRun, State.readByte]
    split
    · rfl
    · rw [ih]; rfl

theorem loadRun_all {xs : List RegNo} {a : Nat} {s : State} (h : ∀ k, k < xs.length → a + k < s.cfg.memSize) :
    (loadRun a xs s).2 = none := by
  induction xs generalizing a s with
  | nil => rfl
  | cons x xs ih =>
    simp only [List.length_cons] at h
    have h0 : a < s.cfg.memSize := by simpa using h 0 (by omega)
    simp only [loadRun, State.readByte_of_lt h0]
    refine ih fun k hk => ?_
    have := h (k + 1) (by omega)
    simp only [State.setReg_cfg]; omega

theorem loadRun_first {xs : List RegNo} {a k : Nat} {s : State} (hk : k < xs.length)
    (hout : s.cfg.memSize ≤ a + k) (hin : ∀ j, j < k → a + j < s.cfg.memSize) :
    (loadRun a xs s).2 = some (a + k) := by
  induction xs generalizing a k s with
  | nil => simp at hk
  | cons x xs ih =>
    simp only [List.length_cons] at hk
    cases k with
    | zero => simp only [loadRun, State.readByte_of_ge (s := s) (a := a) (by omega)]; simp
    | succ k =>
      have h0 : a < s.cfg.memSize := by simpa using hin 0 (by omega)
      simp only [loadRun, State.readByte_of_lt h0]
      rw [ih (k := k) (by omega) (by simp only [State.setReg_cfg]; omega)
        (fun j hj => by have := hin (j + 1) (by omega); simp only [State.setReg_cfg]; omega)]
      congr 1; omega

/-- What every register holds after loading `V[m]`, `V[m + 1]`, .. from ascending addresses. -/
theorem loadRun_reg (n m a : Nat) (s : State) (hm : m + n ≤ 16) (j : RegNo) :
    (loadRun a ((List.range' m n).map (BitVec.ofNat 4)) s).1.reg j =
      if m ≤ j.toNat ∧ j.toNat < m + n ∧ a + (j.toNat - m) < s.cfg.memSize then s.byteAt (a + (j.toNat - m))
      else s.reg j := by
  induction n generalizing m a s with
  | zero => simp only [List.range'_zero, List.map_nil, loadRun]; rw [if_neg (by omega)]
  | succ n ih =>
    simp only [List.range'_succ, List.map_cons, loadRun, State.readByte]
    by_cases ha : a < s.cfg.memSize
    · simp only [ha, if_true, ih _ _ _ (by omega : m + 1 + n ≤ 16), State.setReg_cfg, State.byteAt_setReg,
        State.reg_setReg]
      by_cases hj : j = BitVec.ofNat 4 m
      · have hjn : j.toNat = m := by subst hj; simp only [BitVec.toNat_ofNat]; omega
        rw [if_neg (by omega), if_pos hj, if_pos ⟨by omega, by omega, by simpa [hjn] using ha⟩, hjn]; simp
      · have hjn : j.toNat ≠ m := fun h => hj (by rw [← h]; simp)
        rw [if_neg hj]
        by_cases hr : m + 1 ≤ j.toNat ∧ j.toNat < m + 1 + n ∧ a + 1 + (j.toNat - (m + 1)) < s.cfg.memSize
        · rw [if_pos hr, if_pos (by omega)]
          congr 1; omega
        · rw [if_neg hr, if_neg (by omega)]
    · simp only [ha, if_false]
      rw [if_neg (by omega)]

/-! ## The registers of a block -/

theorem regRange_zero (x : RegNo) : regRange 0 x = (List.range' 0 (x.toNat + 1)).map (BitVec.ofNat 4) := by
  simp [regRange, List.range_eq_range']

@[simp] theorem regRange_length (lo hi : RegNo) : (regRange lo hi).length = hi.toNat + 1 - lo.toNat := by
  simp [regRange]

/-! ## The end of a block instruction -/

theorem finishBlock_none (i : Instr) (n : Nat) (s : State) : finishBlock i n (s, none) = s.advanceI n := rfl

theorem finishBlock_some (i : Instr) (n a : Nat) (s : State) : finishBlock i n (s, some a) = s.outOfRange i a := rfl

end Sys2Proof.Machine
end

