-- ==== Sys2Proof/Laws/Draw.lean ====
section
/-! SUPPORT. What a draw does, in closed form (spec 44_draw.md R201, R202): the requests of the rows it reads, the
answers to them, and the collision flag. -/

namespace Sys2Proof.Machine

/-- `t` is `s` after plotting the requests `rs`: they are issued, as many answers are taken, `VF` becomes 1 if one of
the answers was "already set" and is otherwise left, and nothing else changes. -/
structure Plotted (s t : State) (rs : List Request) : Prop where
  reg_other : ∀ j, j ≠ 15 → t.reg j = s.reg j
  reg_flag : t.reg 15 = if ∃ k, k < rs.length ∧ s.answer k = true then 1 else s.reg 15
  frame : t = { s.afterAnswers rs.length with v := t.v, requests := s.requests ++ rs }

theorem State.answer_afterAnswers (s : State) (n k : Nat) : (s.afterAnswers n).answer k = s.answer (n + k) := by
  simp only [State.answer, State.afterAnswers, List.length_drop]
  by_cases h : n + k < s.plotIn.length
  · rw [dif_pos (by omega), dif_pos h]; simp
  · rw [dif_neg (by omega), dif_neg h]; congr 1; omega

theorem State.answer_congr {s t : State} (hp : t.plotIn = s.plotIn) (hf : t.free = s.free) (k : Nat) :
    t.answer k = s.answer k := by
  simp only [State.answer, hp, hf]

theorem Plotted.answer {s t : State} {rs : List Request} (h : Plotted s t rs) (k : Nat) :
    t.answer k = s.answer (rs.length + k) := by
  rw [← State.answer_afterAnswers, h.frame]; rfl

theorem Plotted.refl (s : State) : Plotted s s [] where
  reg_other _ _ := rfl
  reg_flag := by simp
  frame := by simp [State.afterAnswers]

theorem Plotted.trans {s t u : State} {rs rs' : List Request} (h : Plotted s t rs) (h' : Plotted t u rs') :
    Plotted s u (rs ++ rs') where
  reg_other j hj := (h'.reg_other j hj).trans (h.reg_other j hj)
  reg_flag := by
    rw [h'.reg_flag, h.reg_flag]
    simp only [h.answer, List.length_append]
    by_cases h2 : ∃ k, k < rs'.length ∧ s.answer (rs.length + k) = true
    · obtain ⟨k, hk, ha⟩ := h2
      rw [if_pos ⟨k, hk, ha⟩, if_pos ⟨rs.length + k, by omega, ha⟩]
    · rw [if_neg h2]
      by_cases h1 : ∃ k, k < rs.length ∧ s.answer k = true
      · obtain ⟨k, hk, ha⟩ := h1
        rw [if_pos ⟨k, hk, ha⟩, if_pos ⟨k, by omega, ha⟩]
      · rw [if_neg h1, if_neg]
        rintro ⟨k, hk, ha⟩
        by_cases hlt : k < rs.length
        · exact h1 ⟨k, hlt, ha⟩
        · exact h2 ⟨k - rs.length, by omega, by rw [Nat.add_sub_cancel' (by omega)]; exact ha⟩
  frame := by
    rw [h'.frame, h.frame]
    simp only [State.afterAnswers, List.length_append, List.drop_drop, List.append_assoc, List.length_drop]
    congr 1
    omega

theorem Plotted.byteAt {s t : State} {rs : List Request} (h : Plotted s t rs) (a : Nat) :
    t.byteAt a = s.byteAt a := by
  rw [h.frame]; rfl

theorem Plotted.cfg {s t : State} {rs : List Request} (h : Plotted s t rs) : t.cfg = s.cfg := by
  rw [h.frame]; rfl

/-- One request and its answer. -/
theorem plotted_plotXor (s : State) (x y : Nat) :
    (s.plotXor x y).1 = s.answer 0 ∧
    Plotted s (if (s.plotXor x y).1 then (s.plotXor x y).2.setReg flagReg 1 else (s.plotXor x y).2)
      [.plotXor x y] := by
  have hans : (s.plotXor x y).1 = s.answer 0 := by
    simp only [State.plotXor, State.takeAnswer, State.answer, State.request]
    cases hp : s.plotIn <;> simp
  refine ⟨hans, ?_, ?_, ?_⟩
  · intro j hj
    split <;> simp_all [flagReg]
  · rw [hans]
    simp only [List.length_singleton]
    by_cases ha : s.answer 0 = true
    · rw [if_pos ha, if_pos ⟨0, by omega, ha⟩]; simp [flagReg]
    · rw [if_neg ha, if_neg]
      · simp
      · rintro ⟨k, hk, hk'⟩
        have : k = 0 := by omega
        exact ha (this ▸ hk')
  · have hframe : (s.plotXor x y).2 =
        { s.afterAnswers 1 with v := (s.plotXor x y).2.v, requests := s.requests ++ [.plotXor x y] } := by
      simp only [State.plotXor, State.takeAnswer, State.request, State.afterAnswers]
      cases hp : s.plotIn <;> simp
    split
    · rw [State.setReg_eq, hframe]; rfl
    · exact hframe

/-- One pixel of a row. -/
theorem plotted_plotPixel (x0 y : Nat) (b : Byte) (p : Bool) (s : State) (c : Nat) :
    ∃ rs, rs = (if b.getLsbD (7 - c) then [Request.plotXor (x0 + c) y] else []) ∧
      Plotted s (plotPixel x0 y b (p, s) c).2 rs ∧ (plotPixel x0 y b (p, s) c).1 = (p || decide (rs ≠ [])) := by
  refine ⟨_, rfl, ?_⟩
  unfold plotPixel
  by_cases hb : b.getLsbD (7 - c) = true
  · simp only [hb, if_true]
    exact ⟨(plotted_plotXor s (x0 + c) y).2, by simp⟩
  · simp only [hb]
    exact ⟨Plotted.refl s, by simp⟩

/-- Some columns of a row, left to right. -/
theorem plotted_columns (x0 y : Nat) (b : Byte) (cs : List Nat) (p : Bool) (s : State) :
    ∃ rs, rs = (cs.filterMap fun c => if b.getLsbD (7 - c) then some (Request.plotXor (x0 + c) y) else none) ∧
      Plotted s (cs.foldl (plotPixel x0 y b) (p, s)).2 rs ∧
      (cs.foldl (plotPixel x0 y b) (p, s)).1 = (p || decide (rs ≠ [])) := by
  refine ⟨_, rfl, ?_⟩
  induction cs generalizing p s with
  | nil => exact ⟨Plotted.refl s, by simp⟩
  | cons c cs ih =>
    obtain ⟨rs, hrs, hpl, hp⟩ := plotted_plotPixel x0 y b p s c
    obtain ⟨hpl', hp'⟩ := ih (plotPixel x0 y b (p, s) c).1 (plotPixel x0 y b (p, s) c).2
    have hsplit : (c :: cs).filterMap
          (fun c => if b.getLsbD (7 - c) then some (Request.plotXor (x0 + c) y) else none) =
        rs ++ cs.filterMap (fun c => if b.getLsbD (7 - c) then some (Request.plotXor (x0 + c) y) else none) := by
      subst hrs
      by_cases hb : b.getLsbD (7 - c) = true <;> simp [hb]
    rw [hsplit]
    refine ⟨hpl.trans hpl', ?_⟩
    simp only [List.foldl_cons]
    rw [show plotPixel x0 y b (p, s) c = ((plotPixel x0 y b (p, s) c).1, (plotPixel x0 y b (p, s) c).2) from rfl,
      hp', hp]
    cases rs <;> simp

/-- One row. -/
theorem plotted_row (x0 y : Nat) (b : Byte) (p : Bool) (s : State) :
    Plotted s (plotRow x0 y b (p, s)).2 (rowRequests x0 y b) ∧
      (plotRow x0 y b (p, s)).1 = (p || decide (rowRequests x0 y b ≠ [])) := by
  obtain ⟨rs, hrs, h⟩ := plotted_columns x0 y b (List.range 8) p s
  subst hrs
  exact h

/-- The requests of the rows `m`, `m + 1`, .. (`n` of them). -/
def State.rowsRequests (s : State) (x0 y0 i0 m n : Nat) : List Request :=
  (List.range' m n).flatMap fun r => rowRequests x0 (y0 + r) (s.byteAt (i0 + r))

theorem State.rowsRequests_succ (s : State) (x0 y0 i0 m n : Nat) :
    s.rowsRequests x0 y0 i0 m (n + 1) =
      rowRequests x0 (y0 + m) (s.byteAt (i0 + m)) ++ s.rowsRequests x0 y0 i0 (m + 1) n := by
  simp [State.rowsRequests, List.range'_succ]

theorem State.rowsRequests_congr {s t : State} (h : ∀ a, t.byteAt a = s.byteAt a) (x0 y0 i0 m n : Nat) :
    t.rowsRequests x0 y0 i0 m n = s.rowsRequests x0 y0 i0 m n := by
  simp only [State.rowsRequests, h]

/-- All rows in range: every row is drawn. -/
theorem plotRows_all (x0 y0 i0 n m : Nat) (p : Bool) (s : State)
    (h : ∀ k, k < n → i0 + (m + k) < s.cfg.memSize) :
    ∃ t, plotRows x0 y0 i0 (List.range' m n) (p, s) =
        ((p || decide (s.rowsRequests x0 y0 i0 m n ≠ []), t), none) ∧
      Plotted s t (s.rowsRequests x0 y0 i0 m n) := by
  induction n generalizing m p s with
  | zero => exact ⟨s, by simp [plotRows, State.rowsRequests], by simpa [State.rowsRequests] using Plotted.refl s⟩
  | succ n ih =>
    have h0 : i0 + m < s.cfg.memSize := by simpa using h 0 (by omega)
    obtain ⟨hrow, hp⟩ := plotted_row x0 (y0 + m) (s.byteAt (i0 + m)) p s
    obtain ⟨t, ht, hpl⟩ := ih (m + 1) (plotRow x0 (y0 + m) (s.byteAt (i0 + m)) (p, s)).1
      (plotRow x0 (y0 + m) (s.byteAt (i0 + m)) (p, s)).2
      (fun k hk => by rw [hrow.cfg]; have := h (k + 1) (by omega); omega)
    rw [State.rowsRequests_congr hrow.byteAt] at ht hpl
    refine ⟨t, ?_, by rw [State.rowsRequests_succ]; exact hrow.trans hpl⟩
    simp only [List.range'_succ, plotRows, State.readByte_of_lt h0]
    rw [show plotRow x0 (y0 + m) (s.byteAt (i0 + m)) (p, s) =
      ((plotRow x0 (y0 + m) (s.byteAt (i0 + m)) (p, s)).1, (plotRow x0 (y0 + m) (s.byteAt (i0 + m)) (p, s)).2) from rfl,
      ht, hp, State.rowsRequests_succ]
    cases rowRequests x0 (y0 + m) (s.byteAt (i0 + m)) <;> simp

/-- A row out of range: the rows before it are drawn, and its address is reported. -/
theorem plotRows_first (x0 y0 i0 n m k : Nat) (p : Bool) (s : State) (hk : k < n)
    (hout : s.cfg.memSize ≤ i0 + (m + k)) (hin : ∀ j, j < k → i0 + (m + j) < s.cfg.memSize) :
    ∃ q t, plotRows x0 y0 i0 (List.range' m n) (p, s) = ((q, t), some (i0 + (m + k))) ∧
      Plotted s t (s.rowsRequests x0 y0 i0 m k) := by
  induction n generalizing m k p s with
  | zero => omega
  | succ n ih =>
    simp only [List.range'_succ, plotRows]
    cases k with
    | zero =>
      refine ⟨p, s, ?_, by simpa [State.rowsRequests] using Plotted.refl s⟩
      simp only [State.readByte_of_ge (s := s) (a := i0 + m) (by omega)]; simp
    | succ k =>
      have h0 : i0 + m < s.cfg.memSize := by simpa using hin 0 (by omega)
      obtain ⟨hrow, -⟩ := plotted_row x0 (y0 + m) (s.byteAt (i0 + m)) p s
      obtain ⟨q, t, ht, hpl⟩ := ih (m + 1) k (plotRow x0 (y0 + m) (s.byteAt (i0 + m)) (p, s)).1
        (plotRow x0 (y0 + m) (s.byteAt (i0 + m)) (p, s)).2 (by omega)
        (by rw [hrow.cfg]; omega) (fun j hj => by rw [hrow.cfg]; have := hin (j + 1) (by omega); omega)
      rw [State.rowsRequests_congr hrow.byteAt] at hpl
      refine ⟨q, t, ?_, by rw [State.rowsRequests_succ]; exact hrow.trans hpl⟩
      simp only [State.readByte_of_lt h0]
      rw [show plotRow x0 (y0 + m) (s.byteAt (i0 + m)) (p, s) =
        ((plotRow x0 (y0 + m) (s.byteAt (i0 + m)) (p, s)).1, (plotRow x0 (y0 + m) (s.byteAt (i0 + m)) (p, s)).2)
        from rfl, ht]
      congr 2; omega

theorem State.spriteRequests_eq (s : State) (x0 y0 n : Nat) :
    s.spriteRequests x0 y0 n = s.rowsRequests x0 y0 s.idx.toNat 0 n := by
  simp [State.spriteRequests, State.rowsRequests, List.range_eq_range']

/-- Every request of a row is a plot within eight columns of its left end. -/
theorem mem_rowRequests {x0 y : Nat} {b : Byte} {r : Request} (h : r ∈ rowRequests x0 y b) :
    ∃ c, c < 8 ∧ r = .plotXor (x0 + c) y := by
  simp only [rowRequests, List.mem_filterMap, List.mem_range, Option.ite_none_right_eq_some, Option.some.injEq] at h
  obtain ⟨c, hc, -, rfl⟩ := h
  exact ⟨c, hc, rfl⟩

/-- Every request of a sprite is a plot within its 8 columns and `n` rows. -/
theorem State.mem_spriteRequests {s : State} {x0 y0 n : Nat} {r : Request} (h : r ∈ s.spriteRequests x0 y0 n) :
    ∃ c k, c < 8 ∧ k < n ∧ r = .plotXor (x0 + c) (y0 + k) := by
  simp only [State.spriteRequests, List.mem_flatMap, List.mem_range] at h
  obtain ⟨k, hk, hr⟩ := h
  obtain ⟨c, hc, rfl⟩ := mem_rowRequests hr
  exact ⟨c, k, hc, hk, rfl⟩

end Sys2Proof.Machine
end

