-- ==== Sys2Proof/Laws/Effects.lean ====
section
/-! SUPPORT. The fields that the shared operations leave alone: control transfers, the block instructions and the draw
touch only the fields their rules name (spec 41_control_flow.md R130 to R134; 43_memory_block.md R183 to R188;
44_draw.md R201). -/

namespace Sys2Proof.Machine

/-! ### `Jump` -/

theorem State.jumpTo_frame (s : State) (i : Instr) (a : Nat) :
    s.jumpTo i a =
      { s with pc := (s.jumpTo i a).pc, run := (s.jumpTo i a).run, halt := (s.jumpTo i a).halt } := by
  rcases s.jumpTo_cases i a with ⟨-, e⟩ | ⟨-, e⟩ <;> (rw [e]; try rfl)

@[simp] theorem State.jumpTo_v (s : State) (i : Instr) (a : Nat) :
    (s.jumpTo i a).v = s.v := by rw [State.jumpTo_frame]
@[simp] theorem State.jumpTo_idx (s : State) (i : Instr) (a : Nat) :
    (s.jumpTo i a).idx = s.idx := by rw [State.jumpTo_frame]
@[simp] theorem State.jumpTo_stack (s : State) (i : Instr) (a : Nat) :
    (s.jumpTo i a).stack = s.stack := by rw [State.jumpTo_frame]
@[simp] theorem State.jumpTo_sp (s : State) (i : Instr) (a : Nat) :
    (s.jumpTo i a).sp = s.sp := by rw [State.jumpTo_frame]
@[simp] theorem State.jumpTo_mem (s : State) (i : Instr) (a : Nat) :
    (s.jumpTo i a).mem = s.mem := by rw [State.jumpTo_frame]
@[simp] theorem State.jumpTo_dt (s : State) (i : Instr) (a : Nat) :
    (s.jumpTo i a).dt = s.dt := by rw [State.jumpTo_frame]
@[simp] theorem State.jumpTo_st (s : State) (i : Instr) (a : Nat) :
    (s.jumpTo i a).st = s.st := by rw [State.jumpTo_frame]
@[simp] theorem State.jumpTo_progEnd (s : State) (i : Instr) (a : Nat) :
    (s.jumpTo i a).progEnd = s.progEnd := by rw [State.jumpTo_frame]
@[simp] theorem State.jumpTo_qcfg (s : State) (i : Instr) (a : Nat) :
    (s.jumpTo i a).qcfg = s.qcfg := by rw [State.jumpTo_frame]
@[simp] theorem State.jumpTo_cfg (s : State) (i : Instr) (a : Nat) :
    (s.jumpTo i a).cfg = s.cfg := by rw [State.jumpTo_frame]
@[simp] theorem State.jumpTo_key (s : State) (i : Instr) (a : Nat) :
    (s.jumpTo i a).key = s.key := by rw [State.jumpTo_frame]
@[simp] theorem State.jumpTo_events (s : State) (i : Instr) (a : Nat) :
    (s.jumpTo i a).events = s.events := by rw [State.jumpTo_frame]
@[simp] theorem State.jumpTo_later (s : State) (i : Instr) (a : Nat) :
    (s.jumpTo i a).later = s.later := by rw [State.jumpTo_frame]
@[simp] theorem State.jumpTo_rndIn (s : State) (i : Instr) (a : Nat) :
    (s.jumpTo i a).rndIn = s.rndIn := by rw [State.jumpTo_frame]
@[simp] theorem State.jumpTo_plotIn (s : State) (i : Instr) (a : Nat) :
    (s.jumpTo i a).plotIn = s.plotIn := by rw [State.jumpTo_frame]
@[simp] theorem State.jumpTo_free (s : State) (i : Instr) (a : Nat) :
    (s.jumpTo i a).free = s.free := by rw [State.jumpTo_frame]
@[simp] theorem State.jumpTo_requests (s : State) (i : Instr) (a : Nat) :
    (s.jumpTo i a).requests = s.requests := by rw [State.jumpTo_frame]

/-! ### `SkipIf` -/

theorem State.skipIf_frame (s : State) (i : Instr) (c : Bool) :
    s.skipIf i c =
      { s with pc := (s.skipIf i c).pc, run := (s.skipIf i c).run, halt := (s.skipIf i c).halt } := by
  rcases s.skipIf_cases i c with ⟨-, e⟩ | ⟨-, -, e⟩ | ⟨-, -, e⟩ <;> (rw [e]; try rfl)

@[simp] theorem State.skipIf_v (s : State) (i : Instr) (c : Bool) :
    (s.skipIf i c).v = s.v := by rw [State.skipIf_frame]
@[simp] theorem State.skipIf_idx (s : State) (i : Instr) (c : Bool) :
    (s.skipIf i c).idx = s.idx := by rw [State.skipIf_frame]
@[simp] theorem State.skipIf_stack (s : State) (i : Instr) (c : Bool) :
    (s.skipIf i c).stack = s.stack := by rw [State.skipIf_frame]
@[simp] theorem State.skipIf_sp (s : State) (i : Instr) (c : Bool) :
    (s.skipIf i c).sp = s.sp := by rw [State.skipIf_frame]
@[simp] theorem State.skipIf_mem (s : State) (i : Instr) (c : Bool) :
    (s.skipIf i c).mem = s.mem := by rw [State.skipIf_frame]
@[simp] theorem State.skipIf_dt (s : State) (i : Instr) (c : Bool) :
    (s.skipIf i c).dt = s.dt := by rw [State.skipIf_frame]
@[simp] theorem State.skipIf_st (s : State) (i : Instr) (c : Bool) :
    (s.skipIf i c).st = s.st := by rw [State.skipIf_frame]
@[simp] theorem State.skipIf_progEnd (s : State) (i : Instr) (c : Bool) :
    (s.skipIf i c).progEnd = s.progEnd := by rw [State.skipIf_frame]
@[simp] theorem State.skipIf_qcfg (s : State) (i : Instr) (c : Bool) :
    (s.skipIf i c).qcfg = s.qcfg := by rw [State.skipIf_frame]
@[simp] theorem State.skipIf_cfg (s : State) (i : Instr) (c : Bool) :
    (s.skipIf i c).cfg = s.cfg := by rw [State.skipIf_frame]
@[simp] theorem State.skipIf_key (s : State) (i : Instr) (c : Bool) :
    (s.skipIf i c).key = s.key := by rw [State.skipIf_frame]
@[simp] theorem State.skipIf_events (s : State) (i : Instr) (c : Bool) :
    (s.skipIf i c).events = s.events := by rw [State.skipIf_frame]
@[simp] theorem State.skipIf_later (s : State) (i : Instr) (c : Bool) :
    (s.skipIf i c).later = s.later := by rw [State.skipIf_frame]
@[simp] theorem State.skipIf_rndIn (s : State) (i : Instr) (c : Bool) :
    (s.skipIf i c).rndIn = s.rndIn := by rw [State.skipIf_frame]
@[simp] theorem State.skipIf_plotIn (s : State) (i : Instr) (c : Bool) :
    (s.skipIf i c).plotIn = s.plotIn := by rw [State.skipIf_frame]
@[simp] theorem State.skipIf_free (s : State) (i : Instr) (c : Bool) :
    (s.skipIf i c).free = s.free := by rw [State.skipIf_frame]
@[simp] theorem State.skipIf_requests (s : State) (i : Instr) (c : Bool) :
    (s.skipIf i c).requests = s.requests := by rw [State.skipIf_frame]

/-! ### `Call` -/

theorem State.callTo_frame (s : State) (i : Instr) (a : Nat) :
    s.callTo i a =
      { s with pc := (s.callTo i a).pc, run := (s.callTo i a).run, halt := (s.callTo i a).halt, stack := (s.callTo i a).stack, sp := (s.callTo i a).sp } := by
  rcases s.callTo_cases i a with ⟨-, e⟩ | ⟨-, -, e⟩ | ⟨_, -, e⟩ <;> (rw [e]; try rfl)

@[simp] theorem State.callTo_v (s : State) (i : Instr) (a : Nat) :
    (s.callTo i a).v = s.v := by rw [State.callTo_frame]
@[simp] theorem State.callTo_idx (s : State) (i : Instr) (a : Nat) :
    (s.callTo i a).idx = s.idx := by rw [State.callTo_frame]
@[simp] theorem State.callTo_mem (s : State) (i : Instr) (a : Nat) :
    (s.callTo i a).mem = s.mem := by rw [State.callTo_frame]
@[simp] theorem State.callTo_dt (s : State) (i : Instr) (a : Nat) :
    (s.callTo i a).dt = s.dt := by rw [State.callTo_frame]
@[simp] theorem State.callTo_st (s : State) (i : Instr) (a : Nat) :
    (s.callTo i a).st = s.st := by rw [State.callTo_frame]
@[simp] theorem State.callTo_progEnd (s : State) (i : Instr) (a : Nat) :
    (s.callTo i a).progEnd = s.progEnd := by rw [State.callTo_frame]
@[simp] theorem State.callTo_qcfg (s : State) (i : Instr) (a : Nat) :
    (s.callTo i a).qcfg = s.qcfg := by rw [State.callTo_frame]
@[simp] theorem State.callTo_cfg (s : State) (i : Instr) (a : Nat) :
    (s.callTo i a).cfg = s.cfg := by rw [State.callTo_frame]
@[simp] theorem State.callTo_key (s : State) (i : Instr) (a : Nat) :
    (s.callTo i a).key = s.key := by rw [State.callTo_frame]
@[simp] theorem State.callTo_events (s : State) (i : Instr) (a : Nat) :
    (s.callTo i a).events = s.events := by rw [State.callTo_frame]
@[simp] theorem State.callTo_later (s : State) (i : Instr) (a : Nat) :
    (s.callTo i a).later = s.later := by rw [State.callTo_frame]
@[simp] theorem State.callTo_rndIn (s : State) (i : Instr) (a : Nat) :
    (s.callTo i a).rndIn = s.rndIn := by rw [State.callTo_frame]
@[simp] theorem State.callTo_plotIn (s : State) (i : Instr) (a : Nat) :
    (s.callTo i a).plotIn = s.plotIn := by rw [State.callTo_frame]
@[simp] theorem State.callTo_free (s : State) (i : Instr) (a : Nat) :
    (s.callTo i a).free = s.free := by rw [State.callTo_frame]
@[simp] theorem State.callTo_requests (s : State) (i : Instr) (a : Nat) :
    (s.callTo i a).requests = s.requests := by rw [State.callTo_frame]

/-! ### `Return` -/

theorem State.returnFrom_frame (s : State) (i : Instr) :
    s.returnFrom i =
      { s with pc := (s.returnFrom i).pc, run := (s.returnFrom i).run, halt := (s.returnFrom i).halt, sp := (s.returnFrom i).sp } := by
  rcases s.returnFrom_cases i with ⟨-, e⟩ | ⟨k, hk, -, e⟩ <;> (rw [e]; try rfl)

@[simp] theorem State.returnFrom_v (s : State) (i : Instr) :
    (s.returnFrom i).v = s.v := by rw [State.returnFrom_frame]
@[simp] theorem State.returnFrom_idx (s : State) (i : Instr) :
    (s.returnFrom i).idx = s.idx := by rw [State.returnFrom_frame]
@[simp] theorem State.returnFrom_stack (s : State) (i : Instr) :
    (s.returnFrom i).stack = s.stack := by rw [State.returnFrom_frame]
@[simp] theorem State.returnFrom_mem (s : State) (i : Instr) :
    (s.returnFrom i).mem = s.mem := by rw [State.returnFrom_frame]
@[simp] theorem State.returnFrom_dt (s : State) (i : Instr) :
    (s.returnFrom i).dt = s.dt := by rw [State.returnFrom_frame]
@[simp] theorem State.returnFrom_st (s : State) (i : Instr) :
    (s.returnFrom i).st = s.st := by rw [State.returnFrom_frame]
@[simp] theorem State.returnFrom_progEnd (s : State) (i : Instr) :
    (s.returnFrom i).progEnd = s.progEnd := by rw [State.returnFrom_frame]
@[simp] theorem State.returnFrom_qcfg (s : State) (i : Instr) :
    (s.returnFrom i).qcfg = s.qcfg := by rw [State.returnFrom_frame]
@[simp] theorem State.returnFrom_cfg (s : State) (i : Instr) :
    (s.returnFrom i).cfg = s.cfg := by rw [State.returnFrom_frame]
@[simp] theorem State.returnFrom_key (s : State) (i : Instr) :
    (s.returnFrom i).key = s.key := by rw [State.returnFrom_frame]
@[simp] theorem State.returnFrom_events (s : State) (i : Instr) :
    (s.returnFrom i).events = s.events := by rw [State.returnFrom_frame]
@[simp] theorem State.returnFrom_later (s : State) (i : Instr) :
    (s.returnFrom i).later = s.later := by rw [State.returnFrom_frame]
@[simp] theorem State.returnFrom_rndIn (s : State) (i : Instr) :
    (s.returnFrom i).rndIn = s.rndIn := by rw [State.returnFrom_frame]
@[simp] theorem State.returnFrom_plotIn (s : State) (i : Instr) :
    (s.returnFrom i).plotIn = s.plotIn := by rw [State.returnFrom_frame]
@[simp] theorem State.returnFrom_free (s : State) (i : Instr) :
    (s.returnFrom i).free = s.free := by rw [State.returnFrom_frame]
@[simp] theorem State.returnFrom_requests (s : State) (i : Instr) :
    (s.returnFrom i).requests = s.requests := by rw [State.returnFrom_frame]

/-! ### A block instruction that stores -/

theorem storeBlock_frame (i : Instr) (n a : Nat) (bs : List Byte) (s : State) :
    finishBlock i n (storeRun a bs s) =
      { s with mem := (finishBlock i n (storeRun a bs s)).mem, idx := (finishBlock i n (storeRun a bs s)).idx, run := (finishBlock i n (storeRun a bs s)).run, halt := (finishBlock i n (storeRun a bs s)).halt } := by
  have h := storeRun_frame bs a s
  generalize storeRun a bs s = r at h
  obtain ⟨t, o⟩ := r
  simp only at h
  cases o with
  | none =>
    rw [finishBlock_none, State.advanceI]
    split <;> rw [h]
  | some b => rw [finishBlock_some, h]; rfl

@[simp] theorem storeBlock_v (i : Instr) (n a : Nat) (bs : List Byte) (s : State) :
    (finishBlock i n (storeRun a bs s)).v = s.v := by rw [storeBlock_frame]
@[simp] theorem storeBlock_pc (i : Instr) (n a : Nat) (bs : List Byte) (s : State) :
    (finishBlock i n (storeRun a bs s)).pc = s.pc := by rw [storeBlock_frame]
@[simp] theorem storeBlock_stack (i : Instr) (n a : Nat) (bs : List Byte) (s : State) :
    (finishBlock i n (storeRun a bs s)).stack = s.stack := by rw [storeBlock_frame]
@[simp] theorem storeBlock_sp (i : Instr) (n a : Nat) (bs : List Byte) (s : State) :
    (finishBlock i n (storeRun a bs s)).sp = s.sp := by rw [storeBlock_frame]
@[simp] theorem storeBlock_dt (i : Instr) (n a : Nat) (bs : List Byte) (s : State) :
    (finishBlock i n (storeRun a bs s)).dt = s.dt := by rw [storeBlock_frame]
@[simp] theorem storeBlock_st (i : Instr) (n a : Nat) (bs : List Byte) (s : State) :
    (finishBlock i n (storeRun a bs s)).st = s.st := by rw [storeBlock_frame]
@[simp] theorem storeBlock_progEnd (i : Instr) (n a : Nat) (bs : List Byte) (s : State) :
    (finishBlock i n (storeRun a bs s)).progEnd = s.progEnd := by rw [storeBlock_frame]
@[simp] theorem storeBlock_qcfg (i : Instr) (n a : Nat) (bs : List Byte) (s : State) :
    (finishBlock i n (storeRun a bs s)).qcfg = s.qcfg := by rw [storeBlock_frame]
@[simp] theorem storeBlock_cfg (i : Instr) (n a : Nat) (bs : List Byte) (s : State) :
    (finishBlock i n (storeRun a bs s)).cfg = s.cfg := by rw [storeBlock_frame]
@[simp] theorem storeBlock_key (i : Instr) (n a : Nat) (bs : List Byte) (s : State) :
    (finishBlock i n (storeRun a bs s)).key = s.key := by rw [storeBlock_frame]
@[simp] theorem storeBlock_events (i : Instr) (n a : Nat) (bs : List Byte) (s : State) :
    (finishBlock i n (storeRun a bs s)).events = s.events := by rw [storeBlock_frame]
@[simp] theorem storeBlock_later (i : Instr) (n a : Nat) (bs : List Byte) (s : State) :
    (finishBlock i n (storeRun a bs s)).later = s.later := by rw [storeBlock_frame]
@[simp] theorem storeBlock_rndIn (i : Instr) (n a : Nat) (bs : List Byte) (s : State) :
    (finishBlock i n (storeRun a bs s)).rndIn = s.rndIn := by rw [storeBlock_frame]
@[simp] theorem storeBlock_plotIn (i : Instr) (n a : Nat) (bs : List Byte) (s : State) :
    (finishBlock i n (storeRun a bs s)).plotIn = s.plotIn := by rw [storeBlock_frame]
@[simp] theorem storeBlock_free (i : Instr) (n a : Nat) (bs : List Byte) (s : State) :
    (finishBlock i n (storeRun a bs s)).free = s.free := by rw [storeBlock_frame]
@[simp] theorem storeBlock_requests (i : Instr) (n a : Nat) (bs : List Byte) (s : State) :
    (finishBlock i n (storeRun a bs s)).requests = s.requests := by rw [storeBlock_frame]

/-! ### A block instruction that loads -/

theorem loadBlock_frame (i : Instr) (n a : Nat) (xs : List RegNo) (s : State) :
    finishBlock i n (loadRun a xs s) =
      { s with v := (finishBlock i n (loadRun a xs s)).v, idx := (finishBlock i n (loadRun a xs s)).idx, run := (finishBlock i n (loadRun a xs s)).run, halt := (finishBlock i n (loadRun a xs s)).halt } := by
  have h := loadRun_frame xs a s
  generalize loadRun a xs s = r at h
  obtain ⟨t, o⟩ := r
  simp only at h
  cases o with
  | none =>
    rw [finishBlock_none, State.advanceI]
    split <;> rw [h]
  | some b => rw [finishBlock_some, h]; rfl

@[simp] theorem loadBlock_pc (i : Instr) (n a : Nat) (xs : List RegNo) (s : State) :
    (finishBlock i n (loadRun a xs s)).pc = s.pc := by rw [loadBlock_frame]
@[simp] theorem loadBlock_stack (i : Instr) (n a : Nat) (xs : List RegNo) (s : State) :
    (finishBlock i n (loadRun a xs s)).stack = s.stack := by rw [loadBlock_frame]
@[simp] theorem loadBlock_sp (i : Instr) (n a : Nat) (xs : List RegNo) (s : State) :
    (finishBlock i n (loadRun a xs s)).sp = s.sp := by rw [loadBlock_frame]
@[simp] theorem loadBlock_mem (i : Instr) (n a : Nat) (xs : List RegNo) (s : State) :
    (finishBlock i n (loadRun a xs s)).mem = s.mem := by rw [loadBlock_frame]
@[simp] theorem loadBlock_dt (i : Instr) (n a : Nat) (xs : List RegNo) (s : State) :
    (finishBlock i n (loadRun a xs s)).dt = s.dt := by rw [loadBlock_frame]
@[simp] theorem loadBlock_st (i : Instr) (n a : Nat) (xs : List RegNo) (s : State) :
    (finishBlock i n (loadRun a xs s)).st = s.st := by rw [loadBlock_frame]
@[simp] theorem loadBlock_progEnd (i : Instr) (n a : Nat) (xs : List RegNo) (s : State) :
    (finishBlock i n (loadRun a xs s)).progEnd = s.progEnd := by rw [loadBlock_frame]
@[simp] theorem loadBlock_qcfg (i : Instr) (n a : Nat) (xs : List RegNo) (s : State) :
    (finishBlock i n (loadRun a xs s)).qcfg = s.qcfg := by rw [loadBlock_frame]
@[simp] theorem loadBlock_cfg (i : Instr) (n a : Nat) (xs : List RegNo) (s : State) :
    (finishBlock i n (loadRun a xs s)).cfg = s.cfg := by rw [loadBlock_frame]
@[simp] theorem loadBlock_key (i : Instr) (n a : Nat) (xs : List RegNo) (s : State) :
    (finishBlock i n (loadRun a xs s)).key = s.key := by rw [loadBlock_frame]
@[simp] theorem loadBlock_events (i : Instr) (n a : Nat) (xs : List RegNo) (s : State) :
    (finishBlock i n (loadRun a xs s)).events = s.events := by rw [loadBlock_frame]
@[simp] theorem loadBlock_later (i : Instr) (n a : Nat) (xs : List RegNo) (s : State) :
    (finishBlock i n (loadRun a xs s)).later = s.later := by rw [loadBlock_frame]
@[simp] theorem loadBlock_rndIn (i : Instr) (n a : Nat) (xs : List RegNo) (s : State) :
    (finishBlock i n (loadRun a xs s)).rndIn = s.rndIn := by rw [loadBlock_frame]
@[simp] theorem loadBlock_plotIn (i : Instr) (n a : Nat) (xs : List RegNo) (s : State) :
    (finishBlock i n (loadRun a xs s)).plotIn = s.plotIn := by rw [loadBlock_frame]
@[simp] theorem loadBlock_free (i : Instr) (n a : Nat) (xs : List RegNo) (s : State) :
    (finishBlock i n (loadRun a xs s)).free = s.free := by rw [loadBlock_frame]
@[simp] theorem loadBlock_requests (i : Instr) (n a : Nat) (xs : List RegNo) (s : State) :
    (finishBlock i n (loadRun a xs s)).requests = s.requests := by rw [loadBlock_frame]

/-! ### The draw -/

/-- Whatever the rows, the draw plots the requests of the rows it reads: all of them, or those before the first row
out of range. -/
theorem plotRows_cases (x0 y0 i0 n : Nat) (s : State) :
    (∃ t, (∀ r, r < n → i0 + r < s.cfg.memSize) ∧
      plotRows x0 y0 i0 (List.range n) (false, s) = ((decide (s.rowsRequests x0 y0 i0 0 n ≠ []), t), none) ∧
      Plotted s t (s.rowsRequests x0 y0 i0 0 n)) ∨
    (∃ r q t, r < n ∧ s.cfg.memSize ≤ i0 + r ∧
      plotRows x0 y0 i0 (List.range n) (false, s) = ((q, t), some (i0 + r)) ∧
      Plotted s t (s.rowsRequests x0 y0 i0 0 r)) := by
  rw [List.range_eq_range']
  by_cases h : ∀ r, r < n → i0 + r < s.cfg.memSize
  · obtain ⟨t, ht, hp⟩ := plotRows_all x0 y0 i0 n 0 false s (by simpa using h)
    exact .inl ⟨t, h, by simpa using ht, hp⟩
  · have hex : ∃ r, r < n ∧ s.cfg.memSize ≤ i0 + r := by
      by_contra hc
      exact h fun r hr => by
        by_contra hlt
        exact hc ⟨r, hr, by omega⟩
    let r := s.cfg.memSize - i0
    obtain ⟨r0, hr0, hout⟩ := hex
    obtain ⟨q, t, ht, hp⟩ := plotRows_first x0 y0 i0 n 0 r false s (by omega) (by omega) (by omega)
    exact .inr ⟨r, q, t, by omega, by omega, by simpa using ht, hp⟩

/-! ### The draw's frame -/

theorem draw_frame (i : Instr) (x0 y0 i0 n : Nat) (s : State) :
    finishDraw i (plotRows x0 y0 i0 (List.range n) (false, s)) =
      { s with v := (finishDraw i (plotRows x0 y0 i0 (List.range n) (false, s))).v, run := (finishDraw i (plotRows x0 y0 i0 (List.range n) (false, s))).run, halt := (finishDraw i (plotRows x0 y0 i0 (List.range n) (false, s))).halt, plotIn := (finishDraw i (plotRows x0 y0 i0 (List.range n) (false, s))).plotIn, free := (finishDraw i (plotRows x0 y0 i0 (List.range n) (false, s))).free, requests := (finishDraw i (plotRows x0 y0 i0 (List.range n) (false, s))).requests } := by
  rcases plotRows_cases x0 y0 i0 n s with ⟨t, -, e, hp⟩ | ⟨r, q, t, -, -, e, hp⟩
  · rw [e, finishDraw]
    have h := hp.frame
    split <;> rw [h] <;> rfl
  · rw [e, finishDraw, hp.frame]; rfl

@[simp] theorem draw_idx (i : Instr) (x0 y0 i0 n : Nat) (s : State) :
    (finishDraw i (plotRows x0 y0 i0 (List.range n) (false, s))).idx = s.idx := by rw [draw_frame]
@[simp] theorem draw_pc (i : Instr) (x0 y0 i0 n : Nat) (s : State) :
    (finishDraw i (plotRows x0 y0 i0 (List.range n) (false, s))).pc = s.pc := by rw [draw_frame]
@[simp] theorem draw_stack (i : Instr) (x0 y0 i0 n : Nat) (s : State) :
    (finishDraw i (plotRows x0 y0 i0 (List.range n) (false, s))).stack = s.stack := by rw [draw_frame]
@[simp] theorem draw_sp (i : Instr) (x0 y0 i0 n : Nat) (s : State) :
    (finishDraw i (plotRows x0 y0 i0 (List.range n) (false, s))).sp = s.sp := by rw [draw_frame]
@[simp] theorem draw_mem (i : Instr) (x0 y0 i0 n : Nat) (s : State) :
    (finishDraw i (plotRows x0 y0 i0 (List.range n) (false, s))).mem = s.mem := by rw [draw_frame]
@[simp] theorem draw_dt (i : Instr) (x0 y0 i0 n : Nat) (s : State) :
    (finishDraw i (plotRows x0 y0 i0 (List.range n) (false, s))).dt = s.dt := by rw [draw_frame]
@[simp] theorem draw_st (i : Instr) (x0 y0 i0 n : Nat) (s : State) :
    (finishDraw i (plotRows x0 y0 i0 (List.range n) (false, s))).st = s.st := by rw [draw_frame]
@[simp] theorem draw_progEnd (i : Instr) (x0 y0 i0 n : Nat) (s : State) :
    (finishDraw i (plotRows x0 y0 i0 (List.range n) (false, s))).progEnd = s.progEnd := by rw [draw_frame]
@[simp] theorem draw_qcfg (i : Instr) (x0 y0 i0 n : Nat) (s : State) :
    (finishDraw i (plotRows x0 y0 i0 (List.range n) (false, s))).qcfg = s.qcfg := by rw [draw_frame]
@[simp] theorem draw_cfg (i : Instr) (x0 y0 i0 n : Nat) (s : State) :
    (finishDraw i (plotRows x0 y0 i0 (List.range n) (false, s))).cfg = s.cfg := by rw [draw_frame]
@[simp] theorem draw_key (i : Instr) (x0 y0 i0 n : Nat) (s : State) :
    (finishDraw i (plotRows x0 y0 i0 (List.range n) (false, s))).key = s.key := by rw [draw_frame]
@[simp] theorem draw_events (i : Instr) (x0 y0 i0 n : Nat) (s : State) :
    (finishDraw i (plotRows x0 y0 i0 (List.range n) (false, s))).events = s.events := by rw [draw_frame]
@[simp] theorem draw_later (i : Instr) (x0 y0 i0 n : Nat) (s : State) :
    (finishDraw i (plotRows x0 y0 i0 (List.range n) (false, s))).later = s.later := by rw [draw_frame]
@[simp] theorem draw_rndIn (i : Instr) (x0 y0 i0 n : Nat) (s : State) :
    (finishDraw i (plotRows x0 y0 i0 (List.range n) (false, s))).rndIn = s.rndIn := by rw [draw_frame]

end Sys2Proof.Machine
end

