-- ==== Sys2Proof/Laws/Encoding.lean ====
section
/-! SUPPORT. The fields of a packed word are what it was packed from (spec 30_encoding.md R101, R103). -/

namespace Sys2Proof

@[simp] theorem fieldG_packA (g : Nibble) (nnn : Addr12) : fieldG (packA g nnn) = g := by
  refine BitVec.eq_of_getLsbD_eq fun i hi => ?_
  simp only [fieldG, packA, BitVec.getLsbD_extractLsb', BitVec.getLsbD_append]
  interval_cases i <;> simp

@[simp] theorem fieldNNN_packA (g : Nibble) (nnn : Addr12) : fieldNNN (packA g nnn) = nnn := by
  refine BitVec.eq_of_getLsbD_eq fun i hi => ?_
  simp only [fieldNNN, packA, BitVec.getLsbD_extractLsb', BitVec.getLsbD_append]
  interval_cases i <;> simp

@[simp] theorem fieldG_packK (g : Nibble) (x : RegNo) (kk : Byte) : fieldG (packK g x kk) = g := by
  refine BitVec.eq_of_getLsbD_eq fun i hi => ?_
  simp only [fieldG, packK, BitVec.getLsbD_extractLsb', BitVec.getLsbD_append]
  interval_cases i <;> simp

@[simp] theorem fieldX_packK (g : Nibble) (x : RegNo) (kk : Byte) : fieldX (packK g x kk) = x := by
  refine BitVec.eq_of_getLsbD_eq fun i hi => ?_
  simp only [fieldX, packK, BitVec.getLsbD_extractLsb', BitVec.getLsbD_append]
  interval_cases i <;> simp

@[simp] theorem fieldKK_packK (g : Nibble) (x : RegNo) (kk : Byte) : fieldKK (packK g x kk) = kk := by
  refine BitVec.eq_of_getLsbD_eq fun i hi => ?_
  simp only [fieldKK, packK, BitVec.getLsbD_extractLsb', BitVec.getLsbD_append]
  interval_cases i <;> simp

@[simp] theorem fieldG_packR (g : Nibble) (x y : RegNo) (n : Nibble) : fieldG (packR g x y n) = g := by
  refine BitVec.eq_of_getLsbD_eq fun i hi => ?_
  simp only [fieldG, packR, BitVec.getLsbD_extractLsb', BitVec.getLsbD_append]
  interval_cases i <;> simp

@[simp] theorem fieldX_packR (g : Nibble) (x y : RegNo) (n : Nibble) : fieldX (packR g x y n) = x := by
  refine BitVec.eq_of_getLsbD_eq fun i hi => ?_
  simp only [fieldX, packR, BitVec.getLsbD_extractLsb', BitVec.getLsbD_append]
  interval_cases i <;> simp

@[simp] theorem fieldY_packR (g : Nibble) (x y : RegNo) (n : Nibble) : fieldY (packR g x y n) = y := by
  refine BitVec.eq_of_getLsbD_eq fun i hi => ?_
  simp only [fieldY, packR, BitVec.getLsbD_extractLsb', BitVec.getLsbD_append]
  interval_cases i <;> simp

@[simp] theorem fieldN_packR (g : Nibble) (x y : RegNo) (n : Nibble) : fieldN (packR g x y n) = n := by
  refine BitVec.eq_of_getLsbD_eq fun i hi => ?_
  simp only [fieldN, packR, BitVec.getLsbD_extractLsb', BitVec.getLsbD_append]
  interval_cases i <;> simp

end Sys2Proof
end

