-- ==== Sys2Proof/Laws/Step.lean ====
section
/-! SUPPORT. Everything the fetch, the engine's step, the tick and a step of the machine can do (spec
47_execution_engine.md R246, R247, R250, R253; 45_timer.md R215). -/

namespace Sys2Proof.Machine

/-! ## Fetch and step -/

theorem fetch_cases (s : State) :
    (s.progEnd.toNat ≤ s.pc.toNat ∧ fetch s = .halted (s.haltAt .endOfProgram s.pc 0 0 0)) ∨
    (s.pc.toNat < s.progEnd.toNat ∧ s.cfg.memSize ≤ s.pc.toNat + 1 ∧
      fetch s = .halted (s.haltAt .outOfRange s.pc 0 (s.pc.toNat + 1) 0)) ∨
    (s.pc.toNat < s.progEnd.toNat ∧ s.pc.toNat + 1 < s.cfg.memSize ∧
      fetch s = .word (wordOfBytes (s.byteAt s.pc.toNat) (s.byteAt (s.pc.toNat + 1)))) := by
  unfold fetch State.readWord
  by_cases h1 : s.progEnd.toNat ≤ s.pc.toNat
  · exact .inl ⟨h1, if_pos h1⟩
  · rw [if_neg h1]
    by_cases h2 : s.pc.toNat + 1 < s.cfg.memSize
    · exact .inr (.inr ⟨by omega, h2, by rw [if_pos h2]⟩)
    · exact .inr (.inl ⟨by omega, by omega, by rw [if_neg h2]⟩)

theorem engineStep_halted {s : State} (h : s.run = .halted) : engineStep s = .next s := by
  simp only [engineStep, h]

/-- A running step halts in the fetch or executes the fetched word in a state whose `PC` is past it. -/
theorem engineStep_cases {s : State} (h : s.run = .running) :
    (s.progEnd.toNat ≤ s.pc.toNat ∧ engineStep s = .next (s.haltAt .endOfProgram s.pc 0 0 0)) ∨
    (s.pc.toNat < s.progEnd.toNat ∧ s.cfg.memSize ≤ s.pc.toNat + 1 ∧
      engineStep s = .next (s.haltAt .outOfRange s.pc 0 (s.pc.toNat + 1) 0)) ∨
    (s.pc.toNat < s.progEnd.toNat ∧ s.pc.toNat + 1 < s.cfg.memSize ∧
      engineStep s = execWord (wordOfBytes (s.byteAt s.pc.toNat) (s.byteAt (s.pc.toNat + 1)))
        { s with pc := s.pc + 2 }) := by
  rcases fetch_cases s with ⟨h1, e⟩ | ⟨h1, h2, e⟩ | ⟨h1, h2, e⟩
  · exact .inl ⟨h1, by simp only [engineStep, h, e]⟩
  · exact .inr (.inl ⟨h1, h2, by simp only [engineStep, h, e]⟩)
  · exact .inr (.inr ⟨h1, h2, by simp only [engineStep, h, e]⟩)

theorem execWord_ok {w : Word} {i : Instr} (h : decode w = .ok i) (s : State) : execWord w s = exec i s := by
  simp only [execWord, h]

theorem execWord_error {w : Word} {r : Reject} (h : decode w = .error r) (s : State) :
    execWord w s = .next (s.haltAt .undefinedOpcode (s.pc - 2) w 0 0) := by
  simp only [execWord, h]

/-- Stepping past a word and back. -/
@[simp] theorem pc_add_two_sub_two (pc : Word) : pc + 2 - 2 = pc := by
  simp

/-! ## Tick -/

theorem State.run_cases (s : State) : s.run = .running ∨ s.run = .halted := by
  cases s.run <;> simp

theorem tick_halted {s : State} (h : s.run = .halted) : tick s = s := by
  simp only [tick, h]

theorem tick_running {s : State} (h : s.run = .running) :
    tick s =
      { s with dt := countDown s.dt, st := countDown s.st, requests := s.requests ++ stopRequests s.st } := by
  simp only [tick, h]

/-- A tick changes nothing but `DT`, `ST` and the requests. -/
theorem tick_frame (s : State) :
    tick s = { s with dt := (tick s).dt, st := (tick s).st, requests := (tick s).requests } := by
  rcases s.run_cases with h | h
  · rw [tick_running h]
  · rw [tick_halted h]

/-- A tick neither reads nor writes the schedule. -/
theorem tick_events (s : State) (es : List Event) :
    tick { s with events := es } = { tick s with events := es } := by
  rcases s.run_cases with h | h
  · rw [tick_running h, tick_running (s := { s with events := es }) h]
  · rw [tick_halted h, tick_halted (s := { s with events := es }) h]

/-- Nor does a reset. -/
theorem State.resetWith_events (s : State) (q : QCfg) (prog : List Byte) (es : List Event) :
    State.resetWith { s with events := es } q prog = { s.resetWith q prog with events := es } := by
  simp only [State.resetWith]
  split <;> rfl

theorem toNat_countDown (c : Byte) : (countDown c).toNat = c.toNat - 1 := by
  unfold countDown
  split
  · simp_all
  · rename_i h
    have : c.toNat ≠ 0 := fun h' => h (BitVec.eq_of_toNat_eq (by simpa using h'))
    have := c.isLt
    bv_omega

/-! ## The step of the machine -/

@[simp] theorem State.due_cons {s : State} {e : Event} {es : List Event} (h : s.events = e :: es) : s.due = e := by
  simp only [State.due, h]

@[simp] theorem State.due_nil {s : State} (h : s.events = []) : s.due = s.later.event := by
  simp only [State.due, h]

/-- A schedule of one transition for ever does not move. -/
theorem State.popDue_constant {s : State} {e : Event} (h : s.events = []) (hl : s.later = .cycle e []) :
    s.popDue = s := by
  unfold State.popDue
  cases s
  cases h
  cases hl
  rfl

theorem Event.inSession_ne_reset (e : Event) (q : QCfg) (prog : List Byte) : e.inSession ≠ .reset q prog := by
  cases e <;> nofun

theorem step_of_step {s : State} (h : s.due = .step) : step s = engineStep s.popDue := by
  simp only [step, applyEvent, h]

theorem step_of_tick {s : State} (h : s.due = .tick) : step s = .next (tick s.popDue) := by
  simp only [step, applyEvent, h]

theorem step_of_key {s : State} {k : KeyLatch} (h : s.due = .key k) : step s = .next { s.popDue with key := k } := by
  simp only [step, applyEvent, h]

theorem step_of_reset {s : State} {q : QCfg} {prog : List Byte} (h : s.due = .reset q prog) :
    step s = .next (s.popDue.resetWith q prog) := by
  simp only [step, applyEvent, h]

/-- All that a step of the machine can be. -/
theorem step_cases (s : State) :
    (s.due = .step ∧ step s = engineStep s.popDue) ∨
    (s.due = .tick ∧ step s = .next (tick s.popDue)) ∨
    (∃ k, s.due = .key k ∧ step s = .next { s.popDue with key := k }) ∨
    ∃ q prog, s.due = .reset q prog ∧ step s = .next (s.popDue.resetWith q prog) := by
  cases h : s.due with
  | step => exact .inl ⟨rfl, step_of_step h⟩
  | tick => exact .inr (.inl ⟨rfl, step_of_tick h⟩)
  | key k => exact .inr (.inr (.inl ⟨k, rfl, step_of_key h⟩))
  | reset q prog => exact .inr (.inr (.inr ⟨q, prog, rfl, step_of_reset h⟩))

end Sys2Proof.Machine
end

