-- ==== Sys2Proof/Laws/Exec.lean ====
section
/-! SUPPORT. What every instruction can do to the run state and to the session (spec 47_execution_engine.md R251;
00_scope.md R8), said once for all of them. -/

namespace Sys2Proof.Machine

/-- `t` is `s` going on, or `s` halted by the instruction `i` with its record. -/
def GoesOnOrHalts (i : Instr) (s t : State) : Prop :=
  (t.run = s.run ∧ t.halt = s.halt) ∨
  (t.run = .halted ∧ t.pc = s.pc ∧ t.halt.pc = s.pc - 2 ∧ t.halt.word = encode i ∧
    t.halt.cause ≠ .none ∧ t.halt.cause ≠ .endOfProgram ∧ t.halt.cause ≠ .programTooLarge ∧
    (t.halt.cause ≠ .outOfRange → t.halt.cause ≠ .stackOverflow → t.halt.addr = 0) ∧
    (t.halt.cause ≠ .exit → t.halt.exit = 0))

theorem goesOnOrHalts_jumpTo (i : Instr) (s : State) (a : Nat) : GoesOnOrHalts i s (s.jumpTo i a) := by
  rcases s.jumpTo_cases i a with ⟨-, e⟩ | ⟨-, e⟩ <;> rw [e]
  · exact .inl ⟨rfl, rfl⟩
  · exact .inr ⟨rfl, rfl, rfl, rfl, by simp [State.outOfRange, State.haltIn, State.haltAt]⟩

theorem goesOnOrHalts_skipIf (i : Instr) (s : State) (c : Bool) : GoesOnOrHalts i s (s.skipIf i c) := by
  unfold State.skipIf
  split
  · exact goesOnOrHalts_jumpTo i s _
  · exact .inl ⟨rfl, rfl⟩

theorem goesOnOrHalts_haltIn (i : Instr) (s : State) {k : Cause} (a : Nat) (e : Byte)
    (h : k ≠ .none ∧ k ≠ .endOfProgram ∧ k ≠ .programTooLarge)
    (ha : k ≠ .outOfRange → k ≠ .stackOverflow → BitVec.ofNat 17 a = 0) (he : k ≠ .exit → e = 0) :
    GoesOnOrHalts i s (s.haltIn i k a e) :=
  .inr ⟨rfl, rfl, rfl, rfl, h.1, h.2.1, h.2.2, ha, he⟩

theorem goesOnOrHalts_storeBlock (i : Instr) (n a : Nat) (bs : List Byte) (s : State) :
    GoesOnOrHalts i s (finishBlock i n (storeRun a bs s)) := by
  have hf := storeRun_frame bs a s
  unfold finishBlock
  split <;> rename_i e <;> rw [e] at hf <;> simp only at hf <;> rw [hf]
  · exact .inl ⟨by simp, by simp⟩
  · exact goesOnOrHalts_haltIn i s _ _ (by simp) (by simp) (by simp)

theorem goesOnOrHalts_loadBlock (i : Instr) (n a : Nat) (xs : List RegNo) (s : State) :
    GoesOnOrHalts i s (finishBlock i n (loadRun a xs s)) := by
  have hf := loadRun_frame xs a s
  unfold finishBlock
  split <;> rename_i e <;> rw [e] at hf <;> simp only at hf <;> rw [hf]
  · exact .inl ⟨by simp, by simp⟩
  · exact goesOnOrHalts_haltIn i s _ _ (by simp) (by simp) (by simp)

/-- Every instruction goes on with the record untouched, or halts with its own record. -/
theorem exec_goesOnOrHalts {i : Instr} {s t : State} (h : exec i s = .next t) : GoesOnOrHalts i s t := by
  cases i
  case rnd =>
    simp only [exec, execRnd] at h; split at h <;> cases h
    · exact .inl ⟨by simp, by simp⟩
    · exact goesOnOrHalts_haltIn _ s _ _ (by simp) (by simp) (by simp)
  case skp =>
    simp only [exec, execSkp] at h; split at h <;> cases h
    · exact goesOnOrHalts_haltIn _ s _ _ (by simp) (by simp) (by simp)
    · exact goesOnOrHalts_skipIf _ s _
  case sknp =>
    simp only [exec, execSknp] at h; split at h <;> cases h
    · exact goesOnOrHalts_haltIn _ s _ _ (by simp) (by simp) (by simp)
    · exact goesOnOrHalts_skipIf _ s _
  case ldVxK =>
    simp only [exec, execLdVxK] at h; split at h <;> cases h
    · exact .inl ⟨rfl, rfl⟩
    · exact goesOnOrHalts_haltIn _ s _ _ (by simp) (by simp) (by simp)
    · exact .inl ⟨rfl, rfl⟩
  case exitVx => cases h; exact goesOnOrHalts_haltIn _ s _ _ (by simp) (by simp) (by simp)
  case call nnn =>
    cases h
    rcases s.callTo_cases (.call nnn) nnn.toNat with ⟨-, e⟩ | ⟨-, -, e⟩ | ⟨_, -, e⟩ <;> rw [e]
    · exact goesOnOrHalts_haltIn _ s _ _ (by simp) (by simp) (by simp)
    · exact goesOnOrHalts_haltIn _ s _ _ (by simp) (by simp) (by simp)
    · exact .inl ⟨rfl, rfl⟩
  case ret =>
    cases h
    rcases s.returnFrom_cases .ret with ⟨-, e⟩ | ⟨k, _, hk, e⟩ <;> rw [e]
    · exact goesOnOrHalts_haltIn _ s _ _ (by simp) (by simp) (by simp)
    · exact .inl ⟨rfl, rfl⟩
  case drw x y n =>
    cases h
    rcases plotRows_cases (s.reg x).toNat (s.reg y).toNat (s.dataAddr 0) (spriteRows s.qcfg n)
      (s.setReg flagReg 0) with ⟨t, -, e, hp⟩ | ⟨r, q, t, -, -, e, hp⟩ <;> rw [e] <;> simp only [finishDraw] <;>
      rw [hp.frame]
    · split <;> exact .inl ⟨rfl, rfl⟩
    · exact .inr ⟨rfl, rfl, rfl, rfl, by simp [State.outOfRange, State.haltIn, State.haltAt]⟩
  all_goals
    cases h
    first
    | exact .inl ⟨rfl, rfl⟩
    | exact goesOnOrHalts_jumpTo _ s _
    | exact goesOnOrHalts_skipIf _ s _
    | exact goesOnOrHalts_storeBlock _ _ _ _ s
    | exact goesOnOrHalts_loadBlock _ _ _ _ s

/-- No instruction touches the session or the inputs between steps. -/
theorem exec_session {i : Instr} {s t : State} (h : exec i s = .next t) :
    t.cfg = s.cfg ∧ t.qcfg = s.qcfg ∧ t.progEnd = s.progEnd ∧ t.events = s.events ∧ t.later = s.later ∧ t.key = s.key := by
  cases i
  case rnd => simp only [exec, execRnd] at h; split at h <;> cases h <;> simp
  case skp => simp only [exec, execSkp] at h; split at h <;> cases h <;> simp
  case sknp => simp only [exec, execSknp] at h; split at h <;> cases h <;> simp
  case ldVxK => simp only [exec, execLdVxK] at h; split at h <;> cases h <;> simp
  case drw => simp only [exec, execDrw] at h; cases h; simp
  case ldVxMem => simp only [exec, execLdVxMem, State.blockRecall] at h; cases h; simp
  case ldMemVx => simp only [exec, execLdMemVx, State.blockStore] at h; cases h; simp
  case call => simp only [exec, execCall] at h; cases h; simp
  case ret => simp only [exec, execRet] at h; cases h; simp
  all_goals
    cases h
    first | exact ⟨rfl, rfl, rfl, rfl, rfl, rfl⟩ | simp

end Sys2Proof.Machine
end

