-- ==== Sys2Proof/Laws/PerInstr.lean ====
section
/-! SUPPORT. Statements for all instructions, one lemma per constructor. -/

/-- The encoding of `i` lies on its row of the opcode map: `encode i & mask = match` (spec 30_encoding.md R105). -/
def Sys2Proof.Laws.EncodesToItsRow.Statement (i : Sys2Proof.Instr) : Prop :=
  Sys2Proof.encode i &&& i.opRow.mask = i.opRow.pat

namespace Sys2Proof.Laws.EncodesToItsRow

open Sys2Proof

theorem cls : Statement .cls := rfl

theorem ret : Statement .ret := rfl

theorem jp (nnn : Addr12) : Statement (.jp nnn) := by
  refine BitVec.eq_of_getLsbD_eq fun i hi => ?_
  simp only [encode, packA, Instr.opRow, BitVec.getLsbD_and, BitVec.getLsbD_append]
  interval_cases i <;> simp

theorem call (nnn : Addr12) : Statement (.call nnn) := by
  refine BitVec.eq_of_getLsbD_eq fun i hi => ?_
  simp only [encode, packA, Instr.opRow, BitVec.getLsbD_and, BitVec.getLsbD_append]
  interval_cases i <;> simp

theorem seVxKk (x : RegNo) (kk : Byte) : Statement (.seVxKk x kk) := by
  refine BitVec.eq_of_getLsbD_eq fun i hi => ?_
  simp only [encode, packK, Instr.opRow, BitVec.getLsbD_and, BitVec.getLsbD_append]
  interval_cases i <;> simp

theorem sneVxKk (x : RegNo) (kk : Byte) : Statement (.sneVxKk x kk) := by
  refine BitVec.eq_of_getLsbD_eq fun i hi => ?_
  simp only [encode, packK, Instr.opRow, BitVec.getLsbD_and, BitVec.getLsbD_append]
  interval_cases i <;> simp

theorem seVxVy (x y : RegNo) : Statement (.seVxVy x y) := by
  refine BitVec.eq_of_getLsbD_eq fun i hi => ?_
  simp only [encode, packR, Instr.opRow, BitVec.getLsbD_and, BitVec.getLsbD_append]
  interval_cases i <;> simp

theorem ldVxKk (x : RegNo) (kk : Byte) : Statement (.ldVxKk x kk) := by
  refine BitVec.eq_of_getLsbD_eq fun i hi => ?_
  simp only [encode, packK, Instr.opRow, BitVec.getLsbD_and, BitVec.getLsbD_append]
  interval_cases i <;> simp

theorem addVxKk (x : RegNo) (kk : Byte) : Statement (.addVxKk x kk) := by
  refine BitVec.eq_of_getLsbD_eq fun i hi => ?_
  simp only [encode, packK, Instr.opRow, BitVec.getLsbD_and, BitVec.getLsbD_append]
  interval_cases i <;> simp

theorem ldVxVy (x y : RegNo) : Statement (.ldVxVy x y) := by
  refine BitVec.eq_of_getLsbD_eq fun i hi => ?_
  simp only [encode, packR, Instr.opRow, BitVec.getLsbD_and, BitVec.getLsbD_append]
  interval_cases i <;> simp

theorem orVxVy (x y : RegNo) : Statement (.orVxVy x y) := by
  refine BitVec.eq_of_getLsbD_eq fun i hi => ?_
  simp only [encode, packR, Instr.opRow, BitVec.getLsbD_and, BitVec.getLsbD_append]
  interval_cases i <;> simp

theorem andVxVy (x y : RegNo) : Statement (.andVxVy x y) := by
  refine BitVec.eq_of_getLsbD_eq fun i hi => ?_
  simp only [encode, packR, Instr.opRow, BitVec.getLsbD_and, BitVec.getLsbD_append]
  interval_cases i <;> simp

theorem xorVxVy (x y : RegNo) : Statement (.xorVxVy x y) := by
  refine BitVec.eq_of_getLsbD_eq fun i hi => ?_
  simp only [encode, packR, Instr.opRow, BitVec.getLsbD_and, BitVec.getLsbD_append]
  interval_cases i <;> simp

theorem addVxVy (x y : RegNo) : Statement (.addVxVy x y) := by
  refine BitVec.eq_of_getLsbD_eq fun i hi => ?_
  simp only [encode, packR, Instr.opRow, BitVec.getLsbD_and, BitVec.getLsbD_append]
  interval_cases i <;> simp

theorem subVxVy (x y : RegNo) : Statement (.subVxVy x y) := by
  refine BitVec.eq_of_getLsbD_eq fun i hi => ?_
  simp only [encode, packR, Instr.opRow, BitVec.getLsbD_and, BitVec.getLsbD_append]
  interval_cases i <;> simp

theorem shrVxVy (x y : RegNo) : Statement (.shrVxVy x y) := by
  refine BitVec.eq_of_getLsbD_eq fun i hi => ?_
  simp only [encode, packR, Instr.opRow, BitVec.getLsbD_and, BitVec.getLsbD_append]
  interval_cases i <;> simp

theorem subnVxVy (x y : RegNo) : Statement (.subnVxVy x y) := by
  refine BitVec.eq_of_getLsbD_eq fun i hi => ?_
  simp only [encode, packR, Instr.opRow, BitVec.getLsbD_and, BitVec.getLsbD_append]
  interval_cases i <;> simp

theorem shlVxVy (x y : RegNo) : Statement (.shlVxVy x y) := by
  refine BitVec.eq_of_getLsbD_eq fun i hi => ?_
  simp only [encode, packR, Instr.opRow, BitVec.getLsbD_and, BitVec.getLsbD_append]
  interval_cases i <;> simp

theorem sneVxVy (x y : RegNo) : Statement (.sneVxVy x y) := by
  refine BitVec.eq_of_getLsbD_eq fun i hi => ?_
  simp only [encode, packR, Instr.opRow, BitVec.getLsbD_and, BitVec.getLsbD_append]
  interval_cases i <;> simp

theorem ldI (nnn : Addr12) : Statement (.ldI nnn) := by
  refine BitVec.eq_of_getLsbD_eq fun i hi => ?_
  simp only [encode, packA, Instr.opRow, BitVec.getLsbD_and, BitVec.getLsbD_append]
  interval_cases i <;> simp

theorem jpV0 (nnn : Addr12) : Statement (.jpV0 nnn) := by
  refine BitVec.eq_of_getLsbD_eq fun i hi => ?_
  simp only [encode, packA, Instr.opRow, BitVec.getLsbD_and, BitVec.getLsbD_append]
  interval_cases i <;> simp

theorem rnd (x : RegNo) (kk : Byte) : Statement (.rnd x kk) := by
  refine BitVec.eq_of_getLsbD_eq fun i hi => ?_
  simp only [encode, packK, Instr.opRow, BitVec.getLsbD_and, BitVec.getLsbD_append]
  interval_cases i <;> simp

theorem drw (x y : RegNo) (n : Nibble) : Statement (.drw x y n) := by
  refine BitVec.eq_of_getLsbD_eq fun i hi => ?_
  simp only [encode, packR, Instr.opRow, BitVec.getLsbD_and, BitVec.getLsbD_append]
  interval_cases i <;> simp

theorem skp (x : RegNo) : Statement (.skp x) := by
  refine BitVec.eq_of_getLsbD_eq fun i hi => ?_
  simp only [encode, packK, Instr.opRow, BitVec.getLsbD_and, BitVec.getLsbD_append]
  interval_cases i <;> simp

theorem sknp (x : RegNo) : Statement (.sknp x) := by
  refine BitVec.eq_of_getLsbD_eq fun i hi => ?_
  simp only [encode, packK, Instr.opRow, BitVec.getLsbD_and, BitVec.getLsbD_append]
  interval_cases i <;> simp

theorem exitVx (x : RegNo) : Statement (.exitVx x) := by
  refine BitVec.eq_of_getLsbD_eq fun i hi => ?_
  simp only [encode, packK, Instr.opRow, BitVec.getLsbD_and, BitVec.getLsbD_append]
  interval_cases i <;> simp

theorem ldVxDt (x : RegNo) : Statement (.ldVxDt x) := by
  refine BitVec.eq_of_getLsbD_eq fun i hi => ?_
  simp only [encode, packK, Instr.opRow, BitVec.getLsbD_and, BitVec.getLsbD_append]
  interval_cases i <;> simp

theorem ldVxK (x : RegNo) : Statement (.ldVxK x) := by
  refine BitVec.eq_of_getLsbD_eq fun i hi => ?_
  simp only [encode, packK, Instr.opRow, BitVec.getLsbD_and, BitVec.getLsbD_append]
  interval_cases i <;> simp

theorem ldDtVx (x : RegNo) : Statement (.ldDtVx x) := by
  refine BitVec.eq_of_getLsbD_eq fun i hi => ?_
  simp only [encode, packK, Instr.opRow, BitVec.getLsbD_and, BitVec.getLsbD_append]
  interval_cases i <;> simp

theorem ldStVx (x : RegNo) : Statement (.ldStVx x) := by
  refine BitVec.eq_of_getLsbD_eq fun i hi => ?_
  simp only [encode, packK, Instr.opRow, BitVec.getLsbD_and, BitVec.getLsbD_append]
  interval_cases i <;> simp

theorem addIVx (x : RegNo) : Statement (.addIVx x) := by
  refine BitVec.eq_of_getLsbD_eq fun i hi => ?_
  simp only [encode, packK, Instr.opRow, BitVec.getLsbD_and, BitVec.getLsbD_append]
  interval_cases i <;> simp

theorem ldFVx (x : RegNo) : Statement (.ldFVx x) := by
  refine BitVec.eq_of_getLsbD_eq fun i hi => ?_
  simp only [encode, packK, Instr.opRow, BitVec.getLsbD_and, BitVec.getLsbD_append]
  interval_cases i <;> simp

theorem ldBVx (x : RegNo) : Statement (.ldBVx x) := by
  refine BitVec.eq_of_getLsbD_eq fun i hi => ?_
  simp only [encode, packK, Instr.opRow, BitVec.getLsbD_and, BitVec.getLsbD_append]
  interval_cases i <;> simp

theorem ldMemVx (x : RegNo) : Statement (.ldMemVx x) := by
  refine BitVec.eq_of_getLsbD_eq fun i hi => ?_
  simp only [encode, packK, Instr.opRow, BitVec.getLsbD_and, BitVec.getLsbD_append]
  interval_cases i <;> simp

theorem ldVxMem (x : RegNo) : Statement (.ldVxMem x) := by
  refine BitVec.eq_of_getLsbD_eq fun i hi => ?_
  simp only [encode, packK, Instr.opRow, BitVec.getLsbD_and, BitVec.getLsbD_append]
  interval_cases i <;> simp

end Sys2Proof.Laws.EncodesToItsRow
end

