-- ==== Sys2Proof/Tests/Slice0.lean ====
section
/-! SUPPORT. Tests of the model and witnesses for its statements. The expected values come from spec/95_test_vectors.md
(each test names its vector) or are worked out by hand from the rule it names; the words are written from spec/
30_encoding.md R105. -/

namespace Sys2Proof.Tests

open Sys2Proof.Machine

/-! ## Helpers -/

/-- A next state with the property `f`. -/
def after (o : Host.Outcome State Fault Refusal) (f : State → Bool) : Bool :=
  match o with
  | .next t => f t
  | _ => false

/-- One step that fetches the word `w` at `PC` in `s`. -/
def stepOn (w : Nat) (s : State) (f : State → Bool) : Bool := after (step (s.withFetchWord 16 w)) f

/-- The reset state with these registers. -/
def regs (l : List (RegNo × Byte)) : State := l.foldl (fun s p => s.setReg p.1 p.2) State.reset

/-- The reset state with its last two words loaded, about to run the word at 0xFFC (`PROG_LEN = 3584`). -/
def lastWords : State := { State.reset with pc := 0xFFC, progEnd := 0x1000 }

/-- Variant A: shifts work on `V[X]`. -/
def variantA (s : State) : State := { s with qcfg := { s.qcfg with shiftVx := true } }

/-- The halt record of `t`, in the order cause, pc, word, addr, exit. -/
def haltIs (t : State) (k : Cause) (pc w : Word) (addr : BitVec 17) (e : Byte) : Bool :=
  decide (t.run = .halted ∧ t.halt = { cause := k, pc := pc, word := w, addr := addr, exit := e })

/-! ## Well-formedness -/

/-- The ill-formed term: an instruction of group 0xC where it is not admitted. -/
theorem test_wellFormed_refuses_rnd :
    Instr.wellFormed { defaultQCfg with admitRnd := false } (.rnd 1 0xFF) = false := by decide

theorem test_wellFormed_admits_rnd : Instr.wellFormed defaultQCfg (.rnd 1 0xFF) = true := by decide

theorem test_wellFormed_admits_others :
    Instr.wellFormed { defaultQCfg with admitRnd := false } (.drw 1 2 3) = true := by decide

/-! ## Decoding: every constructor, from a word of R105 -/

/-- Vectors E1, E4, E5. -/
theorem test_decode_group0 :
    decode 0b0000000011100000 = .ok .cls ∧ decode 0b0000000011101110 = .ok .ret ∧
    decode 0x00E1 = .error (.undefinedOpcode 0x00E1) ∧ decode 0x0123 = .error (.undefinedOpcode 0x0123) ∧
    decode 0x01EE = .error (.undefinedOpcode 0x01EE) := by decide

theorem test_decode_addresses :
    decode 0b0001000100100011 = .ok (.jp 0x123) ∧ decode 0b0010010001010110 = .ok (.call 0x456) ∧
    decode 0b1010011110001001 = .ok (.ldI 0x789) ∧ decode 0b1011101010111100 = .ok (.jpV0 0xABC) := by decide

theorem test_decode_immediates :
    decode 0b0011001100101010 = .ok (.seVxKk 3 0x2A) ∧ decode 0b0100001100101010 = .ok (.sneVxKk 3 0x2A) ∧
    decode 0b0110101011111111 = .ok (.ldVxKk 0xA 0xFF) ∧ decode 0b0111010111110000 = .ok (.addVxKk 5 0xF0) ∧
    decode 0b1100000111111111 = .ok (.rnd 1 0xFF) := by decide

/-- Vectors E3, E6, E7, E8. -/
theorem test_decode_registers :
    decode 0b0101000100100000 = .ok (.seVxVy 1 2) ∧ decode 0b1001000100100000 = .ok (.sneVxVy 1 2) ∧
    decode 0b1000000100100000 = .ok (.ldVxVy 1 2) ∧ decode 0b1000000100100001 = .ok (.orVxVy 1 2) ∧
    decode 0b1000000100100010 = .ok (.andVxVy 1 2) ∧ decode 0b1000000100100011 = .ok (.xorVxVy 1 2) ∧
    decode 0b1000101010110100 = .ok (.addVxVy 0xA 0xB) ∧ decode 0b1000000100100101 = .ok (.subVxVy 1 2) ∧
    decode 0b1000000100100110 = .ok (.shrVxVy 1 2) ∧ decode 0b1000000100100111 = .ok (.subnVxVy 1 2) ∧
    decode 0b1000000100101110 = .ok (.shlVxVy 1 2) := by decide

/-- Vectors E1, E6 to E11. -/
theorem test_decode_undefined :
    decode 0xFFFF = .error (.undefinedOpcode 0xFFFF) ∧ decode 0x5121 = .error (.undefinedOpcode 0x5121) ∧
    decode 0x912F = .error (.undefinedOpcode 0x912F) ∧ decode 0x8128 = .error (.undefinedOpcode 0x8128) ∧
    decode 0x812F = .error (.undefinedOpcode 0x812F) ∧ decode 0xE19F = .error (.undefinedOpcode 0xE19F) ∧
    decode 0xF001 = .error (.undefinedOpcode 0xF001) ∧ decode 0xF175 = .error (.undefinedOpcode 0xF175) := by decide

theorem test_decode_sprite_and_keys :
    decode 0b1101000100101010 = .ok (.drw 1 2 0xA) ∧ decode 0b1110000110011110 = .ok (.skp 1) ∧
    decode 0b1110000110100001 = .ok (.sknp 1) := by decide

theorem test_decode_groupF :
    decode 0b1111101000000000 = .ok (.exitVx 0xA) ∧ decode 0b1111000100000111 = .ok (.ldVxDt 1) ∧
    decode 0b1111000100001010 = .ok (.ldVxK 1) ∧ decode 0b1111000100010101 = .ok (.ldDtVx 1) ∧
    decode 0b1111001000011000 = .ok (.ldStVx 2) ∧ decode 0b1111000100011110 = .ok (.addIVx 1) ∧
    decode 0b1111000100101001 = .ok (.ldFVx 1) ∧ decode 0b1111000100110011 = .ok (.ldBVx 1) ∧
    decode 0b1111000101010101 = .ok (.ldMemVx 1) ∧ decode 0b1111000101100101 = .ok (.ldVxMem 1) := by decide

/-- The first byte in memory is the high one (20_memory.md R75; S7's bytes 0x60 0x05). -/
theorem test_decodeBytes_big_endian :
    decodeBytes [0x60, 0x05, 0x70] = .ok (.ldVxKk 0 5, [0x70]) ∧ decodeBytes [0x60] = .error .truncated := by decide

/-- Vector S1. -/
theorem test_fields :
    fieldG 0xD12A = 0xD ∧ fieldX 0xD12A = 1 ∧ fieldY 0xD12A = 2 ∧ fieldN 0xD12A = 0xA ∧ fieldHI 0xD12A = 0xD1 ∧
    fieldKK 0xD12A = 0x2A ∧ fieldNNN 0xD12A = 0x12A := by decide

theorem test_decodeTableWord :
    decodeTableWord 16 0x22FE = some (.call 0x2FE) ∧ decodeTableWord 16 0x5121 = none := by decide

/-! ## Control flow -/

/-- Vector C2. -/
theorem test_jp_below_region :
    stepOn 0x11FF State.reset (fun t => haltIs t .outOfRange 0x200 0x11FF 0x1FF 0 && decide (t.pc = 0x202)) = true := by
  decide

/-- Vector C3. -/
theorem test_jp_odd_target : stepOn 0x1FFF State.reset (fun t => decide (t.pc = 0xFFF ∧ t.run = .running)) = true := by
  decide

/-- Vector C4. -/
theorem test_call :
    stepOn 0x2FFE State.reset (fun t => decide (t.stack[0] = 0x202 ∧ t.sp = 1 ∧ t.pc = 0xFFE)) = true := by decide

/-- Vector C5. -/
theorem test_call_full :
    stepOn 0x2100 { State.reset with sp := 16 }
      (fun t => haltIs t .stackOverflow 0x200 0x2100 0x100 0 && decide (t.sp = 16 ∧ t.pc = 0x202)) = true := by decide

/-- Vector C6. -/
theorem test_ret_empty :
    stepOn 0x00EE State.reset (fun t => haltIs t .stackUnderflow 0x200 0x00EE 0 0 && decide (t.pc = 0x202)) = true := by
  decide

/-- Vector C7. -/
theorem test_ret :
    stepOn 0x00EE { State.reset with sp := 2, stack := State.reset.stack.set 1 0x345 }
      (fun t => decide (t.sp = 1 ∧ t.pc = 0x345)) = true := by decide

/-- Vectors C8, C9. -/
theorem test_se_kk :
    stepOn 0x332A (regs [(3, 0x2A)]) (fun t => decide (t.pc = 0x204)) = true ∧
    stepOn 0x332A (regs [(3, 0x2B)]) (fun t => decide (t.pc = 0x202)) = true := by decide

/-- Vector C10, and R139's other case. -/
theorem test_sne_kk :
    stepOn 0x432A (regs [(3, 0x2A)]) (fun t => decide (t.pc = 0x202)) = true ∧
    stepOn 0x432A (regs [(3, 0x2B)]) (fun t => decide (t.pc = 0x204)) = true := by decide

/-- Vector C11. -/
theorem test_se_vy : stepOn 0x5120 (regs [(1, 7), (2, 7)]) (fun t => decide (t.pc = 0x204)) = true := by decide

/-- Vector C11. -/
theorem test_sne_vy : stepOn 0x9120 (regs [(1, 7), (2, 7)]) (fun t => decide (t.pc = 0x202)) = true := by decide

/-- Vector C13. -/
theorem test_skip_past_memory :
    stepOn 0x3000 lastWords (fun t => haltIs t .outOfRange 0xFFC 0x3000 0x1000 0 && decide (t.pc = 0xFFE)) = true := by
  decide

/-- Vector C16. -/
theorem test_jp_v0 : stepOn 0xB1F0 (regs [(0, 0x10)]) (fun t => decide (t.pc = 0x200)) = true := by decide

/-- Vector C18. -/
theorem test_jp_v0_no_wrap :
    stepOn 0xBFFF (regs [(0, 0xFF)]) (fun t => haltIs t .outOfRange 0x200 0xBFFF 0x10FE 0) = true := by decide

/-! ## Arithmetic -/

/-- Vector A2. -/
theorem test_ld_kk_flag_register : stepOn 0x6F07 (regs [(15, 1)]) (fun t => decide (t.reg 15 = 7)) = true := by decide

/-- Vector A3. -/
theorem test_add_kk_no_flag :
    stepOn 0x7002 (regs [(0, 0xFF), (15, 0xAB)]) (fun t => decide (t.reg 0 = 1 ∧ t.reg 15 = 0xAB)) = true := by decide

/-- Vectors A6, A6b, A6d. -/
theorem test_logic :
    stepOn 0x8120 (regs [(2, 0x7C)]) (fun t => decide (t.reg 1 = 0x7C)) = true ∧
    stepOn 0x8121 (regs [(1, 0xF0), (2, 0x0C), (15, 0x55)])
      (fun t => decide (t.reg 1 = 0xFC ∧ t.reg 15 = 0x55)) = true ∧
    stepOn 0x8122 (regs [(1, 0xF0), (2, 0x3C)]) (fun t => decide (t.reg 1 = 0x30)) = true ∧
    stepOn 0x8123 (regs [(1, 0xF0), (2, 0x3C)]) (fun t => decide (t.reg 1 = 0xCC)) = true := by decide

/-- Vector A7a. -/
theorem test_add_carry :
    stepOn 0x8124 (regs [(1, 0xFF), (2, 1)]) (fun t => decide (t.reg 1 = 0 ∧ t.reg 15 = 1)) = true := by decide

/-- Vector A7e: the flag is written last. -/
theorem test_add_into_flag :
    stepOn 0x8F14 (regs [(15, 0x90), (1, 0x80)]) (fun t => decide (t.reg 15 = 1)) = true := by decide

/-- Vectors A8a, A8b. -/
theorem test_sub :
    stepOn 0x8125 (regs [(1, 5), (2, 5)]) (fun t => decide (t.reg 1 = 0 ∧ t.reg 15 = 1)) = true ∧
    stepOn 0x8125 (regs [(1, 3), (2, 5)]) (fun t => decide (t.reg 1 = 0xFE ∧ t.reg 15 = 0)) = true := by decide

/-- Vectors A9a, A9b. -/
theorem test_subn :
    stepOn 0x8127 (regs [(1, 3), (2, 5)]) (fun t => decide (t.reg 1 = 2 ∧ t.reg 15 = 1)) = true ∧
    stepOn 0x8127 (regs [(1, 5), (2, 3)]) (fun t => decide (t.reg 1 = 0xFE ∧ t.reg 15 = 0)) = true := by decide

/-- Vectors A10a, A10b. -/
theorem test_shr_variants :
    stepOn 0x8126 (variantA (regs [(1, 5), (2, 8)])) (fun t => decide (t.reg 1 = 2 ∧ t.reg 15 = 1)) = true ∧
    stepOn 0x8126 (regs [(1, 5), (2, 8)]) (fun t => decide (t.reg 1 = 4 ∧ t.reg 15 = 0)) = true := by decide

/-- Vectors A10c, A10d. -/
theorem test_shr_y0 :
    stepOn 0x8106 (regs [(1, 5), (0, 8)]) (fun t => decide (t.reg 1 = 2 ∧ t.reg 15 = 1)) = true ∧
    stepOn 0x8106 { regs [(1, 5), (0, 8)] with qcfg := { defaultQCfg with shiftY0Vx := false } }
      (fun t => decide (t.reg 1 = 4 ∧ t.reg 15 = 0)) = true := by decide

/-- Vectors A11a, A11c. -/
theorem test_shl :
    stepOn 0x811E (variantA (regs [(1, 0x81)])) (fun t => decide (t.reg 1 = 2 ∧ t.reg 15 = 1)) = true ∧
    stepOn 0x812E (regs [(2, 0xC1), (1, 0x33)])
      (fun t => decide (t.reg 1 = 0x82 ∧ t.reg 15 = 1 ∧ t.reg 2 = 0xC1)) = true := by decide

/-- Vector A12. -/
theorem test_rnd :
    stepOn 0xC10F { State.reset with rndIn := [0xB7] } (fun t => decide (t.reg 1 = 7 ∧ t.rndIn = [])) = true := by
  decide

/-- Vector E12. -/
theorem test_rnd_not_admitted :
    stepOn 0xC1FF { State.reset with qcfg := { defaultQCfg with admitRnd := false } }
      (fun t => haltIs t .undefinedOpcode 0x200 0xC1FF 0 0) = true := by decide

/-! ## Index pointer and memory blocks -/

/-- Vector M1. -/
theorem test_ld_i : stepOn 0xAFFF State.reset (fun t => decide (t.idx = 0xFFF)) = true := by decide

/-- Vectors M2b, M2c. -/
theorem test_add_i :
    stepOn 0xF01E { regs [(0, 1)] with idx := 0xFFFF } (fun t => decide (t.idx = 0 ∧ t.reg 15 = 0)) = true ∧
    stepOn 0xF01E { regs [(0, 1)] with idx := 0x0FFF }
      (fun t => decide (t.idx = 0x1000 ∧ t.reg 15 = 0 ∧ t.run = .running)) = true := by decide

/-- Vector M3. -/
theorem test_ld_f :
    stepOn 0xF029 (regs [(0, 7)]) (fun t => decide (t.idx = 0x073)) = true ∧
    stepOn 0xF029 (regs [(0, 0x1A)]) (fun t => decide (t.idx = 0x082)) = true := by decide

/-- Vector M4a, both quirks. -/
theorem test_bcd :
    stepOn 0xF033 { regs [(0, 234)] with idx := 0x300 } (fun t => decide (t.byteAt 0x300 = 2 ∧ t.byteAt 0x301 = 3 ∧
      t.byteAt 0x302 = 4 ∧ t.idx = 0x303)) = true ∧
    stepOn 0xF033 { regs [(0, 234)] with idx := 0x300, qcfg := { defaultQCfg with keepI := true } }
      (fun t => decide (t.byteAt 0x302 = 4 ∧ t.idx = 0x300)) = true := by decide

/-- Vector M4c. -/
theorem test_bcd_past_memory :
    stepOn 0xF033 { regs [(0, 123)] with idx := 0xFFE } (fun t => haltIs t .outOfRange 0x200 0xF033 0x1000 0 &&
      decide (t.byteAt 0xFFE = 1 ∧ t.byteAt 0xFFF = 2 ∧ t.idx = 0xFFE)) = true := by decide

/-- Vector M5a. -/
theorem test_block_store :
    stepOn 0xF255 { regs [(0, 0x11), (1, 0x22), (2, 0x33)] with idx := 0x400 } (fun t => decide (
      t.byteAt 0x400 = 0x11 ∧ t.byteAt 0x401 = 0x22 ∧ t.byteAt 0x402 = 0x33 ∧ t.byteAt 0x403 = 0 ∧
      t.idx = 0x403)) = true := by decide

/-- Vector M5b. -/
theorem test_block_store_past_memory :
    stepOn 0xF155 { regs [(0, 0xAA), (1, 0xBB)] with idx := 0xFFF } (fun t =>
      haltIs t .outOfRange 0x200 0xF155 0x1000 0 && decide (t.byteAt 0xFFF = 0xAA ∧ t.idx = 0xFFF)) = true := by decide

/-- Vector M6b. -/
theorem test_block_recall_font :
    stepOn 0xFF65 { State.reset with idx := 0x050 } (fun t => decide (t.reg 0 = 0xF0 ∧ t.reg 5 = 0x20 ∧
      t.reg 6 = 0x60 ∧ t.reg 13 = 0x80 ∧ t.reg 15 = 0xF0 ∧ t.idx = 0x060)) = true := by decide

/-- Vector M6c. -/
theorem test_block_recall_past_memory :
    stepOn 0xF165 ({ regs [(1, 0x99)] with idx := 0xFFF }.setByte 0xFFF 0x5C) (fun t =>
      haltIs t .outOfRange 0x200 0xF165 0x1000 0 && decide (t.reg 0 = 0x5C ∧ t.reg 1 = 0x99)) = true := by decide

/-- Vector M5d: the program is writable. -/
theorem test_store_over_program :
    stepOn 0xF055 { regs [(0, 0x77)] with idx := 0x200 }
      (fun t => decide (t.byteAt 0x200 = 0x77 ∧ t.run = .running)) = true := by decide

/-- Writing an unlisted byte's own value lists nothing (the canonical form; font byte 0x050 is 0xF0). -/
theorem test_memory_canonical :
    ((State.reset.setByte 0x050 1).setByte 0x050 0xF0).mem = [] ∧
    ((State.reset.setByte 0x300 1).setByte 0x2FF 2).mem = [(0x2FF, 2), (0x300, 1)] := by decide

/-! ## Draw -/

/-- Vector G4: unreduced coordinates, left to right. -/
theorem test_drw_requests :
    stepOn 0xD011 ({ regs [(0, 62)] with idx := 0x300, plotIn := [false, false, false, false] }.setByte 0x300 0xF0)
      (fun t => decide (t.requests = [.plotXor 62 0, .plotXor 63 0, .plotXor 64 0, .plotXor 65 0, .redraw] ∧
        t.reg 15 = 0 ∧ t.plotIn = [])) = true := by decide

/-- Vectors G6, G7: the collision flag; the old `VF` is the origin. -/
theorem test_drw_flag :
    stepOn 0xD011 ({ State.reset with idx := 0x300, plotIn := [false, true] }.setByte 0x300 0xC0)
      (fun t => decide (t.reg 15 = 1)) = true ∧
    stepOn 0xDF11 ({ regs [(15, 5)] with idx := 0x300, plotIn := [false] }.setByte 0x300 0x80)
      (fun t => decide (t.reg 15 = 0 ∧ t.requests = [.plotXor 5 0, .redraw])) = true := by decide

/-- Vectors G2, G5. -/
theorem test_drw_height_and_bound :
    stepOn 0xD010 (regs [(15, 1)]) (fun t => decide (t.reg 15 = 0 ∧ t.requests = [])) = true ∧
    stepOn 0xD012 ({ State.reset with idx := 0xFFF, plotIn := [false] }.setByte 0xFFF 0x80)
      (fun t => haltIs t .outOfRange 0x200 0xD012 0x1000 0 && decide (t.requests = [.plotXor 0 0])) = true := by decide

/-- Vector G3: sixteen rows, forty requests and a redraw. -/
theorem test_drw_sixteen_rows :
    stepOn 0xD010 { State.reset with idx := 0x050, qcfg := { defaultQCfg with zero16 := true },
                                     plotIn := List.replicate 40 false }
      (fun t => decide (t.requests.length = 41 ∧ t.idx = 0x050 ∧ t.reg 15 = 0)) = true := by decide

/-- Vector G10. -/
theorem test_cls :
    stepOn 0x00E0 (regs [(15, 1)]) (fun t => decide (t.requests = [.clear, .redraw] ∧ t.reg 15 = 1)) = true := by decide

/-- The reference surface toggles one pixel on and off (R205; vector G1). -/
theorem test_reference_surface :
    (Surface.reference.replay [] [.plotXor 0 0, .redraw, .plotXor 64 32]) = ([], [false, true]) := by decide

/-! ## Timers -/

/-- Vectors T1, T2, T3. -/
theorem test_tick :
    tick { State.reset with dt := 255 } = { State.reset with dt := 254 } ∧
    tick { State.reset with st := 2 } = { State.reset with st := 1 } ∧
    tick { State.reset with st := 1 } = { State.reset with st := 0, requests := [.stopTone] } := by decide

/-- Vector T5. -/
theorem test_tick_halted : (tick { State.reset with dt := 3, run := .halted }).dt = 3 := by decide

/-- Vector T6. -/
theorem test_ld_vx_dt : stepOn 0xF107 { State.reset with dt := 0x3C } (fun t => decide (t.reg 1 = 0x3C)) = true := by
  decide

/-- R217 (vector T9's first step). -/
theorem test_ld_dt_vx : stepOn 0xF115 (regs [(1, 5)]) (fun t => decide (t.dt = 5 ∧ t.requests = [])) = true := by decide

/-- Vectors T7, T8. -/
theorem test_ld_st_vx :
    stepOn 0xF218 (regs [(2, 30)])
      (fun t => decide (t.st = 30 ∧ t.requests = [.startTone 30] ∧ t.audioGate = true)) = true ∧
    stepOn 0xF218 { State.reset with st := 9 }
      (fun t => decide (t.st = 0 ∧ t.requests = [.startTone 0] ∧ t.audioGate = false)) = true := by decide

/-! ## Input -/

/-- Vectors K1, K3. -/
theorem test_skp :
    stepOn 0xE19E { regs [(1, 0x0A)] with key := .key 0x0A } (fun t => decide (t.pc = 0x204)) = true ∧
    stepOn 0xE19E { regs [(1, 0x0A)] with key := .none } (fun t => decide (t.pc = 0x202)) = true := by decide

/-- Vectors K2, K3. -/
theorem test_sknp :
    stepOn 0xE1A1 { regs [(1, 0x0A)] with key := .key 0x0B } (fun t => decide (t.pc = 0x204)) = true ∧
    stepOn 0xE1A1 { regs [(1, 0x0A)] with key := .none } (fun t => decide (t.pc = 0x204)) = true := by decide

/-- Vector K5. -/
theorem test_key_cancel :
    stepOn 0xE19E { State.reset with key := .cancel } (fun t => haltIs t .keyCancel 0x200 0xE19E 0 0) = true ∧
    stepOn 0xE1A1 { State.reset with key := .cancel } (fun t => haltIs t .keyCancel 0x200 0xE1A1 0 0) = true ∧
    stepOn 0xF00A { State.reset with key := .cancel }
      (fun t => haltIs t .keyCancel 0x200 0xF00A 0 0 && decide (t.pc = 0x202)) = true := by decide

/-- Vectors K6, K7. -/
theorem test_key_wait :
    stepOn 0xF00A State.reset (fun t => decide (t.pc = 0x200 ∧ t.run = .running)) = true ∧
    stepOn 0xF00A { State.reset with key := .key 7 } (fun t => decide (t.reg 0 = 7 ∧ t.pc = 0x202)) = true := by decide

/-! ## Engine and reset -/

/-- Vector X2: the first step after a reset with an empty program. -/
theorem test_end_of_program : after (step State.reset) (fun t => haltIs t .endOfProgram 0x200 0 0 0) = true := by decide

/-- Vector X3. -/
theorem test_undefined_word :
    stepOn 0x0000 State.reset (fun t => haltIs t .undefinedOpcode 0x200 0 0 0 && decide (t.pc = 0x202)) = true := by
  decide

/-- Vector X5. -/
theorem test_fetch_past_memory :
    after (step { State.reset with pc := 0xFFF, progEnd := 0x1000 })
      (fun t => haltIs t .outOfRange 0xFFF 0 0x1000 0 && decide (t.pc = 0xFFF)) = true := by decide

/-- Vector X9. -/
theorem test_exit :
    stepOn 0xF700 (regs [(7, 0xC8)])
      (fun t => haltIs t .exit 0x200 0xF700 0 0xC8 && decide (t.pc = 0x202)) = true := by decide

/-- S7's program, reset in as the first transition. -/
theorem test_reset_event :
    after (step { State.reset with pc := 7, events := [.reset defaultQCfg [0x60, 0x05, 0x70, 0x03, 0xF0, 0x00]] })
      (fun t => decide (t.reg 0 = 0 ∧ t.pc = 0x200 ∧ t.progEnd = 0x206 ∧ t.byteAt 0x203 = 3)) = true := by decide

/-- A program of one byte: the fetch reads the byte after it (vector X6). -/
theorem test_one_byte_program :
    after (step (State.reset.resetWith defaultQCfg [0x60]))
      (fun t => decide (t.reg 0 = 0 ∧ t.pc = 0x202 ∧ t.progEnd = 0x201)) = true := by decide

/-- Vectors X7, X8, at a memory of 0x204 bytes. -/
theorem test_reset_size :
    (({ State.reset with cfg := { defaultConfig with memSize := 0x204 } }).resetWith defaultQCfg [1, 2, 3, 4]).run =
      .running ∧
    haltIs (({ State.reset with cfg := { defaultConfig with memSize := 0x204 } }).resetWith defaultQCfg [1, 2, 3, 4, 5])
      .programTooLarge 0 0 0 0 = true := by decide

/-- `State.reset` is the reset of the spec with an empty program, whatever came before in the core. -/
theorem test_reset_is_reset :
    ({ State.reset with pc := 3, dt := 9, run := .halted }).resetWith defaultQCfg [] = State.reset := by decide

/-- `ST` is 1, then a tick and nothing else: it is 0 in a running state, before any `Step()` (R253, R215). -/
theorem test_tick_is_a_step :
    after (step { State.reset with st := 1, events := [.tick] })
      (fun t => decide (t.st = 0 ∧ t.run = .running ∧ t.pc = 0x200 ∧ t.requests = [.stopTone] ∧ t.due = .step)) = true := by
  decide

/-- A driver that ticks on without a `Step()`, and one that alternates (R253). -/
theorem test_events_for_ever :
    after (step { State.reset with dt := 5, later := .cycle .tick [] })
      (fun t => decide (t.dt = 4 ∧ t.due = .tick ∧ t.popDue.due = .tick)) = true ∧
    after (step { State.reset with dt := 5, later := .cycle .tick [.step] })
      (fun t => decide (t.dt = 4 ∧ t.due = .step ∧ t.popDue.due = .tick)) = true := by decide

/-! ## Witnesses: states and operands that meet the hypotheses of each statement, clause by clause -/

/-- A running state with one instruction at 0x200, a `Step()` due; the memory has 4096 bytes. -/
def loaded (w : Nat) (s : State) : State := { s.withFetchWord 16 w with events := [] }

theorem witness_EncodeOfDecodeIsTheWord : ∃ (w : Word) (i : Instr), decode w = .ok i := ⟨0x8AB4, .addVxVy 0xA 0xB, rfl⟩

theorem witness_StepRunsTheDecodedInstruction :
    ∃ (s : State) (i : Instr), s.due = .step ∧ s.run = .running ∧ s.pc.toNat < s.progEnd.toNat ∧
      s.pc.toNat + 1 < s.cfg.memSize ∧
      decodeBytes [s.byteAt s.pc.toNat, s.byteAt (s.pc.toNat + 1)] = .ok (i, []) :=
  ⟨{ State.reset with pc := 0xFFE, events := [.tick] }.withFetchWord 16 0x6005, .ldVxKk 0 5, by decide⟩

theorem witness_FetchHaltsOrReadsTheWord_end :
    ∃ s : State, s.run = .running ∧ s.due = .step ∧ s.progEnd.toNat ≤ s.pc.toNat := ⟨State.reset, by decide⟩

theorem witness_FetchHaltsOrReadsTheWord_bound :
    ∃ s : State, s.run = .running ∧ s.due = .step ∧ s.pc.toNat < s.progEnd.toNat ∧ s.cfg.memSize ≤ s.pc.toNat + 1 :=
  ⟨{ State.reset with pc := 0xFFF, progEnd := 0x1000 }, by decide⟩

theorem witness_FetchHaltsOrReadsTheWord_word :
    ∃ s : State, s.run = .running ∧ s.due = .step ∧ s.pc.toNat < s.progEnd.toNat ∧ s.pc.toNat + 1 < s.cfg.memSize :=
  ⟨{ State.reset with pc := 0xFFE, progEnd := 0xFFF }, by decide⟩

theorem witness_UndefinedWordHaltsTheStep :
    ∃ (s : State) (w : Word), s.run = .running ∧ s.due = .step ∧ s.pc.toNat < s.progEnd.toNat ∧
      s.readWord s.pc.toNat = some w ∧ ¬∃ i, decode w = .ok i ∧ i.wellFormed s.qcfg = true :=
  ⟨loaded 0x0000 State.reset, 0x0000, by decide, by decide, by decide, by decide, by rintro ⟨i, h, -⟩; cases h⟩

/-- The other way to be undefined: group 0xC where it is not admitted. -/
theorem witness_UndefinedWordHaltsTheStep_rnd :
    ∃ (s : State) (w : Word), s.run = .running ∧ s.due = .step ∧ s.pc.toNat < s.progEnd.toNat ∧
      s.readWord s.pc.toNat = some w ∧ ¬∃ i, decode w = .ok i ∧ i.wellFormed s.qcfg = true :=
  ⟨loaded 0xC1FF { State.reset with qcfg := { defaultQCfg with admitRnd := false } }, 0xC1FF, by decide, by decide,
    by decide, by decide, by rintro ⟨i, h, hw⟩; cases h; cases hw⟩

theorem witness_HaltedIsTerminal :
    ∃ s : State, s.run = .halted ∧ ∀ q prog, s.due ≠ .reset q prog :=
  ⟨{ State.reset with run := .halted, dt := 3, events := [.tick] }, rfl, nofun⟩

/-- The same of a session whose transitions are free. -/
theorem witness_HaltedIsTerminal_session :
    ∃ s : State, s.run = .halted ∧ ∀ q prog, s.due ≠ .reset q prog :=
  ⟨{ State.reset with run := .halted, later := .session 7 }, rfl, Event.inSession_ne_reset _⟩

theorem witness_HaltedStateIsFrozen :
    ∃ s : State, s.run = .halted ∧ ∀ q prog, s.due ≠ .reset q prog :=
  ⟨{ State.reset with run := .halted, events := [.key .cancel] }, rfl, nofun⟩

theorem witness_HaltRecordNamesTheInstruction_fetch :
    ∃ s t : State, s.due = .step ∧ s.run = .running ∧ step s = .next t ∧ t.run = .halted :=
  ⟨State.reset, _, rfl, rfl, rfl, rfl⟩

theorem witness_HaltRecordNamesTheInstruction_execute :
    ∃ s t : State, s.due = .step ∧ s.run = .running ∧ step s = .next t ∧ t.run = .halted :=
  ⟨loaded 0xF700 State.reset, _, rfl, rfl, rfl, rfl⟩

/-- `JumpsTo` for `JP nnn`: inside the region at both ends, outside it below; the region ends at 0xFFF, so above it only
where memory is smaller. -/
theorem witness_JumpStaysInTheRegion :
    (State.reset.cfg.loadAddr ≤ (0x200 : Addr12).toNat ∧ (0x200 : Addr12).toNat < State.reset.cfg.memSize) ∧
    (State.reset.cfg.loadAddr ≤ (0xFFF : Addr12).toNat ∧ (0xFFF : Addr12).toNat < State.reset.cfg.memSize) ∧
    ¬(State.reset.cfg.loadAddr ≤ (0x1FF : Addr12).toNat ∧ (0x1FF : Addr12).toNat < State.reset.cfg.memSize) := by decide

/-- `JumpsTo` for `JP V0,nnn`: the sums 0xFFF and 0x1000. -/
theorem witness_IndirectJumpAddsV0 :
    (State.reset.cfg.loadAddr ≤ ((regs [(0, 1)]).reg 0).toNat + (0xFFE : Addr12).toNat ∧
      ((regs [(0, 1)]).reg 0).toNat + (0xFFE : Addr12).toNat < State.reset.cfg.memSize) ∧
    ¬(State.reset.cfg.loadAddr ≤ ((regs [(0, 1)]).reg 0).toNat + (0xFFF : Addr12).toNat ∧
      ((regs [(0, 1)]).reg 0).toNat + (0xFFF : Addr12).toNat < State.reset.cfg.memSize) := by decide

theorem witness_CallPushesOrHalts_full : ∃ s : State, s.sp.val = 16 := ⟨{ State.reset with sp := 16 }, rfl⟩

theorem witness_CallPushesOrHalts_outside :
    ∃ (nnn : Addr12) (s : State), s.sp.val < 16 ∧ ¬(s.cfg.loadAddr ≤ nnn.toNat ∧ nnn.toNat < s.cfg.memSize) :=
  ⟨0x1FF, { State.reset with sp := 15 }, by decide⟩

theorem witness_CallPushesOrHalts_push :
    ∃ (nnn : Addr12) (s : State), s.sp.val < 16 ∧ s.cfg.loadAddr ≤ nnn.toNat ∧ nnn.toNat < s.cfg.memSize :=
  ⟨0xFFF, { State.reset with sp := 15 }, by decide⟩

theorem witness_ReturnPopsOrHalts_empty : ∃ s : State, s.sp.val = 0 := ⟨State.reset, rfl⟩

theorem witness_ReturnPopsOrHalts_pop : ∃ (s : State) (k : Nat), k < 16 ∧ s.sp.val = k + 1 :=
  ⟨{ State.reset with sp := 16 }, 15, by decide⟩

theorem witness_CallsAreReturnedInReverse :
    ∃ (cs : List (Word × Addr12)) (s : State), cs.length = 2 ∧ s.run = .running ∧ s.sp.val + cs.length ≤ 16 ∧
      ∀ c, c ∈ cs → s.cfg.loadAddr ≤ c.2.toNat ∧ c.2.toNat < s.cfg.memSize :=
  ⟨[(0x202, 0x200), (0x202, 0x300)], { State.reset with sp := 14 }, rfl, rfl, by decide, by
    intro c hc
    simp only [List.mem_cons, List.not_mem_nil, or_false] at hc
    rcases hc with rfl | rfl <;> decide⟩

theorem witness_CallsAreReturnedInReverse_full : ∃ s : State, s.sp.val = 16 := ⟨{ State.reset with sp := 16 }, rfl⟩

/-- A `CALL` that pushes, for the statements that quantify over the instructions that answer a next state. -/
theorem witness_OnlyCallAndReturnMoveTheStack_call : ∃ t, exec (.call 0x300) State.reset = .next t ∧ t.sp.val = 1 :=
  ⟨_, rfl, rfl⟩

theorem witness_OnlyCallAndReturnMoveTheStack_ret :
    ∃ t, exec .ret { State.reset with sp := 1 } = .next t ∧ t.sp.val = 0 := ⟨_, rfl, rfl⟩

theorem witness_OnlyCallAndReturnMoveTheStack_other : ∃ t, exec (.ldI 0x300) State.reset = .next t := ⟨_, rfl⟩

theorem witness_OnlyControlFlowMovesThePC_skip :
    ∃ t, exec (.seVxKk 3 0) State.reset = .next t ∧ t.pc = State.reset.pc + 2 := ⟨_, rfl, by decide⟩

theorem witness_OnlyControlFlowMovesThePC_other : ∃ t, exec (.drw 1 2 5) State.reset = .next t := ⟨_, rfl⟩

/-- `SkipsIf` for `SE Vx,kk`: the condition false; true with the target just inside memory; true with it just outside. -/
theorem witness_SkipsJumpOverOneInstruction :
    State.reset.reg 3 ≠ 1 ∧ State.reset.reg 3 = 0 ∧
    (let s := { State.reset with pc := 0xFFD }
     s.cfg.loadAddr ≤ s.pc.toNat + 2 ∧ s.pc.toNat + 2 < s.cfg.memSize) ∧
    (let s := { State.reset with pc := 0xFFE }
     ¬(s.cfg.loadAddr ≤ s.pc.toNat + 2 ∧ s.pc.toNat + 2 < s.cfg.memSize)) := by decide

/-- The value a shift works on, in each of its three cases. -/
theorem witness_ShiftsWorkOnTheSelectedValue :
    let value := fun (s : State) (x y : RegNo) =>
      if s.qcfg.shiftVx then s.reg x else if s.qcfg.shiftY0Vx ∧ y = 0 then s.reg x else s.reg y
    value (variantA (regs [(1, 5), (2, 8)])) 1 2 = 5 ∧ value (regs [(1, 5), (0, 8)]) 1 0 = 5 ∧
    value (regs [(1, 5), (2, 8)]) 1 2 = 8 := by decide

theorem witness_RandomMasksADrawnByte :
    (∃ s : State, s.qcfg.admitRnd = true) ∧ ∃ s : State, s.qcfg.admitRnd = false :=
  ⟨⟨State.reset, rfl⟩, { State.reset with qcfg := { defaultQCfg with admitRnd := false } }, rfl⟩

theorem witness_OnlyFlagInstructionsWriteVF_flag :
    ∃ t, exec (.addVxVy 1 2) (regs [(1, 0xFF), (2, 1)]) = .next t ∧ t.reg 15 = 1 := ⟨_, rfl, by decide⟩

theorem witness_OnlyFlagInstructionsWriteVF_other :
    ∃ t, exec (.ldVxKk 14 7) State.reset = .next t ∧ Instr.xField (.ldVxKk 14 7) ≠ some 15 := ⟨_, rfl, by decide⟩

/-- `StoresBlock` for `LD B,Vx`: all three bytes in range up to the last byte of memory. -/
theorem witness_BcdStoresThreeDigits_all :
    ∃ s : State, ∀ k, k < 3 → s.idx.toNat + k < s.cfg.memSize := ⟨{ State.reset with idx := 0xFFD }, by decide⟩

/-- `StoresBlock` for `LD B,Vx`: the third byte is the first out of range. -/
theorem witness_BcdStoresThreeDigits_first :
    ∃ (s : State) (k : Nat), k < 3 ∧ s.cfg.memSize ≤ s.idx.toNat + k ∧
      ∀ j, j < k → s.idx.toNat + j < s.cfg.memSize := ⟨{ State.reset with idx := 0xFFE }, 2, by decide⟩

/-- `StoresBlock` for `LD [I],Vx` with sixteen registers ending at the last byte of memory (vector M5c). -/
theorem witness_BlockStoreWritesRegisters_all :
    ∃ s : State, ∀ k, k < (15 : RegNo).toNat + 1 → s.idx.toNat + k < s.cfg.memSize :=
  ⟨{ State.reset with idx := 0xFF0 }, by decide⟩

/-- `StoresBlock` for `LD [I],Vx`: the first byte is already out of range. -/
theorem witness_BlockStoreWritesRegisters_first :
    ∃ (s : State) (k : Nat), k < (1 : RegNo).toNat + 1 ∧ s.cfg.memSize ≤ s.idx.toNat + k ∧
      ∀ j, j < k → s.idx.toNat + j < s.cfg.memSize := ⟨{ State.reset with idx := 0x1000 }, 0, by decide⟩

theorem witness_BlockRecallLoadsRegisters_all :
    ∃ (x : RegNo) (s : State), s.idx.toNat + x.toNat < s.cfg.memSize := ⟨15, { State.reset with idx := 0xFF0 }, by decide⟩

theorem witness_BlockRecallLoadsRegisters_first :
    ∃ (x : RegNo) (s : State) (k : Nat), k ≤ x.toNat ∧ s.cfg.memSize ≤ s.idx.toNat + k ∧
      ∀ j, j < k → s.idx.toNat + j < s.cfg.memSize := ⟨1, { State.reset with idx := 0xFFF }, 1, by decide⟩

theorem witness_OnlyListedInstructionsWriteI_block :
    ∃ t, exec (.ldBVx 1) { State.reset with qcfg := { defaultQCfg with keepI := true } } = .next t := ⟨_, rfl⟩

theorem witness_OnlyListedInstructionsWriteI_other : ∃ t, exec (.ldVxKk 1 2) State.reset = .next t := ⟨_, rfl⟩

theorem witness_OnlyTwoInstructionsStore :
    ∃ (i : Instr) (s t : State), exec i s = .next t ∧ (∀ x, i ≠ .ldBVx x) ∧ (∀ x, i ≠ .ldMemVx x) :=
  ⟨.ldVxMem 3, State.reset, _, rfl, nofun, nofun⟩

theorem witness_ReadAfterWrite : 0xFFF < State.reset.cfg.memSize ∧ State.reset.cfg.memSize ≤ 0x1000 := by decide

theorem witness_FetchSeesStoredBytes :
    ∃ (s t u : State) (i : Instr), s.run = .running ∧ s.due = .step ∧ s.pc.toNat < s.progEnd.toNat ∧
      s.writeByte s.pc.toNat (fieldHI (encode i)) = some t ∧
      t.writeByte (s.pc.toNat + 1) (fieldKK (encode i)) = some u :=
  ⟨{ State.reset with pc := 0xFFE, progEnd := 0x1000 }, _, _, .ldVxKk 0 5, rfl, rfl, by decide, rfl, rfl⟩

/-- The height of a sprite in each case. -/
theorem witness_DrawPlotsTheSprite_rows :
    let rows := fun (q : QCfg) (n : Nibble) => if n = 0 then (if q.zero16 then 16 else 0) else n.toNat
    rows { defaultQCfg with zero16 := true } 0 = 16 ∧ rows defaultQCfg 0 = 0 ∧ rows defaultQCfg 15 = 15 := by decide

theorem witness_DrawPlotsTheSprite_all :
    ∃ s : State, ∀ r, r < 15 → s.idx.toNat + r < s.cfg.memSize := ⟨{ State.reset with idx := 0xFF1 }, by decide⟩

theorem witness_DrawPlotsTheSprite_first :
    ∃ (s : State) (r : Nat), r < 2 ∧ s.cfg.memSize ≤ s.idx.toNat + r ∧
      ∀ j, j < r → s.idx.toNat + j < s.cfg.memSize := ⟨{ State.reset with idx := 0xFFF }, 1, by decide⟩

/-- The largest coordinates: a row 0x01 at (255, 255), sixteen rows. -/
theorem witness_PlotCoordinatesAreBounded :
    ∃ t, exec (.drw 0 0 0) { regs [(0, 255)] with
          qcfg := { defaultQCfg with zero16 := true }, idx := 0x300, mem := [(0x30F, 0x01)],
          plotIn := [false] } = .next t ∧
      Request.plotXor 262 270 ∈ t.requests := ⟨_, rfl, by decide⟩

theorem witness_DrawingTwiceCollides :
    ∃ (x y : RegNo) (s : State) (rest : List Bool), x ≠ 15 ∧ y ≠ 15 ∧ s.idx.toNat < s.cfg.memSize ∧
      s.byteAt s.idx.toNat ≠ 0 ∧
      s.plotIn = (Surface.reference.replay []
        (s.spriteRequests (s.reg x).toNat (s.reg y).toNat 1 ++
          s.spriteRequests (s.reg x).toNat (s.reg y).toNat 1)).2 ++ rest :=
  ⟨0, 1, { State.reset with idx := 0x300, plotIn := [false, true] }.setByte 0x300 0x80, [], by decide⟩

theorem witness_TickCountsDown :
    (∃ s : State, s.run = .running ∧ s.st = 1) ∧ ∃ s : State, s.run = .halted :=
  ⟨⟨{ State.reset with st := 1 }, by decide⟩, { State.reset with run := .halted }, rfl⟩

theorem witness_ManyTicksStopAtZero : ∃ (n : Nat) (s : State), s.run = .running ∧ 1 ≤ s.st.toNat ∧ s.st.toNat ≤ n :=
  ⟨6, { State.reset with dt := 5, st := 6 }, by decide⟩

theorem witness_NoInstructionCountsATimer :
    ∃ t, exec (.ldDtVx 1) (regs [(1, 5)]) = .next t ∧ t.dt = 5 := ⟨_, rfl, by decide⟩

theorem witness_RequestsHaveTheirInstruction :
    ∃ t, exec .cls State.reset = .next t ∧ Request.clear ∈ t.requests := ⟨_, rfl, by decide⟩

theorem witness_KeySkips :
    (∃ s : State, s.key = .cancel) ∧ (∃ s : State, s.key ≠ .cancel ∧ s.key = .key (s.reg 1)) ∧
    ∃ s : State, s.key ≠ .cancel ∧ s.key ≠ .key (s.reg 1) :=
  ⟨⟨{ State.reset with key := .cancel }, rfl⟩, ⟨{ State.reset with key := .key 0 }, by decide⟩, State.reset, by decide⟩

theorem witness_KeyWaitTakesAKey :
    (∃ s : State, s.key = .none) ∧ (∃ (s : State) (k : Byte), s.key = .key k) ∧ ∃ s : State, s.key = .cancel :=
  ⟨⟨State.reset, rfl⟩, ⟨{ State.reset with key := .key 0xFF }, 0xFF, rfl⟩, { State.reset with key := .cancel }, rfl⟩

theorem witness_WaitingStepChangesNothing :
    ∃ (s : State) (x : RegNo), s.due = .step ∧ s.run = .running ∧ s.key = .none ∧ s.pc.toNat < s.progEnd.toNat ∧
      s.readWord s.pc.toNat = some (encode (.ldVxK x)) := ⟨loaded 0xF30A State.reset, 3, by decide⟩

theorem witness_OnlyInputInstructionsSeeTheKey :
    ∃ (i : Instr) (s t : State), (∀ x, i ≠ .skp x) ∧ (∀ x, i ≠ .sknp x) ∧ (∀ x, i ≠ .ldVxK x) ∧
      exec i s = .next t :=
  ⟨.drw 0 1 5, State.reset, _, nofun, nofun, nofun, rfl⟩

/-- Such an instruction can halt, with another cause than `KeyCancel`. -/
theorem witness_OnlyInputInstructionsSeeTheKey_halt :
    ∃ t, exec (.exitVx 7) { State.reset with key := .cancel } = .next t ∧ t.run = .halted ∧ t.halt.cause = .exit :=
  ⟨_, rfl, rfl, rfl⟩

theorem witness_ResetLoadsTheProgram_fits :
    ∃ (s : State) (prog : List Byte), s.cfg.wf = true ∧ prog.length = s.cfg.memSize - s.cfg.loadAddr :=
  ⟨{ State.reset with cfg := { defaultConfig with memSize := 0x204 } }, [1, 2, 3, 4], by decide⟩

theorem witness_ResetLoadsTheProgram_too_large :
    ∃ (s : State) (prog : List Byte), s.cfg.wf = true ∧ s.cfg.memSize - s.cfg.loadAddr < prog.length :=
  ⟨{ State.reset with cfg := { defaultConfig with memSize := 0x204 } }, [1, 2, 3, 4, 5], by decide⟩

theorem witness_SessionConfigurationIsConstant :
    ∃ s t : State, (∀ q prog, s.due ≠ .reset q prog) ∧
      step s = .next t :=
  ⟨State.reset.withFetchWord 16 0x6005, _, nofun, rfl⟩

/-- A state inside a subroutine, with a word of memory written, about to return. -/
def insideCall : State := { loaded 0x00EE State.reset with sp := 1, stack := State.reset.stack.set 0 0x204 }

theorem witness_StepKeepsTheInvariant : ∃ s t : State, Inv s ∧ step s = .next t :=
  ⟨insideCall, _,
    { cfg_wf := by decide
      mem_wf := by decide
      pc_low := by decide
      pc_high := by decide
      end_low := by decide
      end_high := by decide
      stack_live := by
        intro k h hk
        have : k = 0 := Nat.lt_one_iff.1 hk
        subst this
        exact (by decide : insideCall.cfg.loadAddr + 2 ≤ (insideCall.stack[0]'(Nat.zero_lt_succ 15)).toNat ∧
          (insideCall.stack[0]'(Nat.zero_lt_succ 15)).toNat ≤ insideCall.cfg.memSize)
      record_running := fun _ => rfl
      record_halted := fun h => by cases h }, rfl⟩

end Sys2Proof.Tests
end

section
/-! The family of 20_memory.md: one access to memory. -/

namespace Sys2Proof.Machine

/-! ## A byte after one store (R73, R74) -/

/-- The byte read back at the address of a store. -/
theorem State.readByte_setByte_self {s : State} {a : Nat} (v : Byte) (h : a < s.cfg.memSize) :
    (s.setByte a v).readByte a = some v := by
  rw [State.readByte_of_lt (s := s.setByte a v) h, State.byteAt_setByte, if_pos rfl]

/-- A store is not seen at another address, in range or not. -/
theorem State.readByte_setByte_of_ne {s : State} {a b : Nat} (v : Byte) (h : b ≠ a) :
    (s.setByte a v).readByte b = s.readByte b := by
  simp only [State.readByte, State.setByte_cfg, State.byteAt_setByte, if_neg h]

/-- Settles O37: below `MEM_SIZE` the write is `setByte`, whose reads are given by `byteAt_setByte`; at and above it
both accesses answer `none`. -/
theorem readAfterWrite : Obligations.ReadAfterWrite := by
  intro s a b
  constructor
  · intro h
    exact ⟨s.setByte a b, State.writeByte_of_lt h, State.readByte_setByte_self b h,
      fun _ hne => State.readByte_setByte_of_ne b hne, rfl⟩
  · intro h
    exact ⟨State.writeByte_of_ge h, State.readByte_of_ge h⟩

end Sys2Proof.Machine
end

section
/-! The family of 30_encoding.md: the fields of a word put together again. -/

namespace Sys2Proof

/-! ## A word from its fields (R102)

Each field is a slice of the word, and two slices that meet are one slice
(`BitVec.extractLsb'_append_extractLsb'_eq_extractLsb'`). -/

theorem fieldG_append_fieldX (w : Word) : fieldG w ++ fieldX w = fieldHI w :=
  BitVec.extractLsb'_append_extractLsb'_eq_extractLsb' rfl

theorem fieldY_append_fieldN (w : Word) : fieldY w ++ fieldN w = fieldKK w :=
  BitVec.extractLsb'_append_extractLsb'_eq_extractLsb' rfl

theorem fieldHI_append_fieldKK (w : Word) : (fieldHI w ++ fieldKK w : Word) = w :=
  BitVec.extractLsb'_append_extractLsb' (w := 8)

/-- The form `A` of a word's own fields is the word. -/
theorem packA_fields (w : Word) : packA (fieldG w) (fieldNNN w) = w :=
  BitVec.extractLsb'_append_extractLsb' (w := 4)

/-- The form `K` of a word's own fields is the word. -/
theorem packK_fields (w : Word) : packK (fieldG w) (fieldX w) (fieldKK w) = w := by
  rw [packK, fieldG_append_fieldX, fieldHI_append_fieldKK]

/-- The form `R` of a word's own fields is the word: its last two nibbles are `KK`. -/
theorem packR_fields (w : Word) : packR (fieldG w) (fieldX w) (fieldY w) (fieldN w) = w := by
  calc packR (fieldG w) (fieldX w) (fieldY w) (fieldN w)
      = packK (fieldG w) (fieldX w) (fieldY w ++ fieldN w) := BitVec.append_assoc
    _ = packK (fieldG w) (fieldX w) (fieldKK w) := by rw [fieldY_append_fieldN]
    _ = w := packK_fields w

/-- Settles O1: the first and third clause are the forms `R` and `A` packed from a word's own fields, the second is its
two bytes. -/
theorem fieldsComposeTheWord : Obligations.FieldsComposeTheWord :=
  fun w => ⟨packR_fields w, fieldHI_append_fieldKK w, packA_fields w⟩

end Sys2Proof
end

section
/-! The family of 42_alu.md: the instructions that write one register. -/

namespace Sys2Proof.Machine

/-! ## One register write (10_state.md R30) -/

/-- An instruction whose whole effect is `setReg` writes that register and nothing else. -/
theorem writesReg_of_exec_eq_setReg {i : Instr} {x : RegNo} {b : Byte} {s : State}
    (h : exec i s = .next (s.setReg x b)) : WritesReg i x b s :=
  ⟨s.setReg x b, h, fun j => s.reg_setReg x j b, s.setReg_eq x b, s.byteAt_setReg x b⟩

/-! ## `LD Vx, kk` (42_alu.md R151) -/

theorem encode_ldVxKk (x : RegNo) (kk : Byte) : encode (.ldVxKk x kk) = (0x6#4 ++ x ++ kk : Word) := rfl

theorem exec_ldVxKk (x : RegNo) (kk : Byte) (s : State) : exec (.ldVxKk x kk) s = .next (s.setReg x kk) := rfl

/-- Settles O25: the load is one `setReg`, for `X = 15` as for any other register. -/
theorem loadImmediateWritesTheRegister : Obligations.LoadImmediateWritesTheRegister :=
  fun x kk s => ⟨encode_ldVxKk x kk, writesReg_of_exec_eq_setReg (exec_ldVxKk x kk s)⟩

end Sys2Proof.Machine
end

section
/-! The family of 46_input.md: the key latch seen from outside the input gate. -/

namespace Sys2Proof.Machine

/-! ## The latch set from outside (R230) -/

/-- The latch holds `k` instead. -/
def State.setKey (s : State) (k : KeyLatch) : State := { s with key := k }

@[simp] theorem State.setKey_sp (s : State) (k : KeyLatch) : (s.setKey k).sp = s.sp := rfl
@[simp] theorem State.setKey_qcfg (s : State) (k : KeyLatch) : (s.setKey k).qcfg = s.qcfg := rfl
@[simp] theorem State.setKey_cfg (s : State) (k : KeyLatch) : (s.setKey k).cfg = s.cfg := rfl
@[simp] theorem State.setKey_rndIn (s : State) (k : KeyLatch) : (s.setKey k).rndIn = s.rndIn := rfl
@[simp] theorem State.setKey_plotIn (s : State) (k : KeyLatch) : (s.setKey k).plotIn = s.plotIn := rfl

/-- An effect that the latch does not reach (R234): with another latch it is the same but for the latch, and a halt it
takes has another cause than `KeyCancel`. -/
structure KeyBlind (f : State → State) : Prop where
  setKey : ∀ s k, f (s.setKey k) = (f s).setKey k
  cause : ∀ s, (f s).run = s.run ∨ (f s).halt.cause ≠ .keyCancel

/-! ## Halts and control transfers (47_execution_engine.md R251; 41_control_flow.md R131 to R134) -/

theorem KeyBlind.ite {c : State → Bool} {f g : State → State} (hc : ∀ s k, c (s.setKey k) = c s) (hf : KeyBlind f)
    (hg : KeyBlind g) : KeyBlind fun s => if c s then f s else g s where
  setKey s k := by
    simp only [hc]
    split
    · exact hf.setKey s k
    · exact hg.setKey s k
  cause s := by
    split
    · exact hf.cause s
    · exact hg.cause s

theorem keyBlind_haltIn (i : Instr) {c : Cause} {a : State → Nat} {e : State → Byte} (hc : c ≠ .keyCancel)
    (ha : ∀ s k, a (s.setKey k) = a s) (he : ∀ s k, e (s.setKey k) = e s) :
    KeyBlind fun s => s.haltIn i c (a s) (e s) where
  setKey s k := by rw [ha, he]; rfl
  cause _ := .inr hc

theorem keyBlind_jumpTo (i : Instr) {a : State → Nat} (ha : ∀ s k, a (s.setKey k) = a s) :
    KeyBlind fun s => s.jumpTo i (a s) :=
  .ite (fun s k => by rw [ha]; rfl) ⟨fun s k => by rw [ha]; rfl, fun _ => .inl rfl⟩
    (keyBlind_haltIn i (by decide) ha fun _ _ => rfl)

theorem keyBlind_skipIf (i : Instr) {c : State → Bool} (hc : ∀ s k, c (s.setKey k) = c s) :
    KeyBlind fun s => s.skipIf i (c s) :=
  .ite hc (keyBlind_jumpTo i fun _ _ => rfl) ⟨fun _ _ => rfl, fun _ => .inl rfl⟩

theorem keyBlind_callTo (i : Instr) (a : Nat) : KeyBlind fun s => s.callTo i a where
  setKey s k := by
    by_cases h : s.sp.val < 16
    · by_cases hr : inRegion s.cfg a = true
      · simp only [State.callTo, State.setKey_sp, State.setKey_cfg, h, hr, ↓reduceDIte, ↓reduceIte]; rfl
      · simp only [State.callTo, State.setKey_sp, State.setKey_cfg, h, hr, ↓reduceDIte]; rfl
    · simp only [State.callTo, State.setKey_sp, h, ↓reduceDIte]; rfl
  cause s := by
    rcases s.callTo_cases i a with ⟨-, e⟩ | ⟨-, -, e⟩ | ⟨_, -, e⟩ <;> simp only [e]
    · exact .inr nofun
    · exact .inr nofun
    · exact .inl trivial

theorem keyBlind_returnFrom (i : Instr) : KeyBlind fun s => s.returnFrom i where
  setKey s k := by
    by_cases h : s.sp.val = 0
    · simp only [State.returnFrom, State.setKey_sp, h, ↓reduceDIte]; rfl
    · simp only [State.returnFrom, State.setKey_sp, h, ↓reduceDIte]; rfl
  cause s := by
    rcases s.returnFrom_cases i with ⟨-, e⟩ | ⟨_, _, -, e⟩ <;> simp only [e]
    · exact .inr nofun
    · exact .inl trivial

/-! ## Memory blocks (43_memory_block.md R183 to R188) -/

theorem storeRun_setKey (bs : List Byte) (a : Nat) (s : State) (k : KeyLatch) :
    storeRun a bs (s.setKey k) = ((storeRun a bs s).1.setKey k, (storeRun a bs s).2) := by
  induction bs generalizing a s with
  | nil => rfl
  | cons b bs ih =>
    by_cases h : a < s.cfg.memSize
    · simp only [storeRun, State.writeByte_of_lt h, State.writeByte_of_lt (s := s.setKey k) h]
      exact ih (a + 1) (s.setByte a b)
    · simp only [storeRun, State.writeByte_of_ge (not_lt.1 h), State.writeByte_of_ge (s := s.setKey k) (not_lt.1 h)]

theorem loadRun_setKey (xs : List RegNo) (a : Nat) (s : State) (k : KeyLatch) :
    loadRun a xs (s.setKey k) = ((loadRun a xs s).1.setKey k, (loadRun a xs s).2) := by
  induction xs generalizing a s with
  | nil => rfl
  | cons x xs ih =>
    by_cases h : a < s.cfg.memSize
    · simp only [loadRun, State.readByte_of_lt h, State.readByte_of_lt (s := s.setKey k) h]
      exact ih (a + 1) (s.setReg x (s.byteAt a))
    · simp only [loadRun, State.readByte_of_ge (not_lt.1 h), State.readByte_of_ge (s := s.setKey k) (not_lt.1 h)]

theorem State.advanceI_setKey (s : State) (n : Nat) (k : KeyLatch) :
    (s.setKey k).advanceI n = (s.advanceI n).setKey k := by
  by_cases h : s.qcfg.keepI = true
  · simp only [State.advanceI, State.setKey_qcfg, h, ↓reduceIte]
  · simp only [State.advanceI, State.setKey_qcfg, h]; rfl

/-- The end of a block instruction adds nothing to what its run of accesses does to the latch and the run state. -/
theorem keyBlind_finishBlock (i : Instr) (n : Nat) {r : State → State × Option Nat}
    (hr : ∀ s k, r (s.setKey k) = ((r s).1.setKey k, (r s).2)) (hrun : ∀ s, (r s).1.run = s.run) :
    KeyBlind fun s => finishBlock i n (r s) where
  setKey s k := by
    rw [hr]
    obtain ⟨t, _ | a⟩ := r s
    · exact t.advanceI_setKey n k
    · rfl
  cause s := by
    rw [← hrun s]
    obtain ⟨t, _ | a⟩ := r s
    · exact .inl (t.advanceI_run n)
    · exact .inr nofun

theorem keyBlind_storeBlock (i : Instr) (n : Nat) {a : State → Nat} {bs : State → List Byte}
    (ha : ∀ s k, a (s.setKey k) = a s) (hb : ∀ s k, bs (s.setKey k) = bs s) :
    KeyBlind fun s => finishBlock i n (storeRun (a s) (bs s) s) :=
  keyBlind_finishBlock i n (fun s k => by rw [ha, hb, storeRun_setKey]) fun s => by rw [storeRun_frame]

theorem keyBlind_loadBlock (i : Instr) (n : Nat) {a : State → Nat} (xs : List RegNo)
    (ha : ∀ s k, a (s.setKey k) = a s) : KeyBlind fun s => finishBlock i n (loadRun (a s) xs s) :=
  keyBlind_finishBlock i n (fun s k => by rw [ha, loadRun_setKey]) fun s => by rw [loadRun_frame]

/-! ## The ports (42_alu.md R163; 44_draw.md R201, R202) -/

theorem State.drawByte_setKey (s : State) (k : KeyLatch) :
    (s.setKey k).drawByte = (s.drawByte.1, s.drawByte.2.setKey k) := by
  cases h : s.rndIn <;> simp only [State.drawByte, State.setKey_rndIn, h] <;> rfl

theorem State.plotXor_setKey (s : State) (x y : Nat) (k : KeyLatch) :
    (s.setKey k).plotXor x y = ((s.plotXor x y).1, (s.plotXor x y).2.setKey k) := by
  cases h : s.plotIn <;> simp only [State.plotXor, State.takeAnswer, State.request, State.setKey_plotIn, h] <;> rfl

theorem plotPixel_setKey (x0 y : Nat) (b : Byte) (acc : Bool × State) (c : Nat) (k : KeyLatch) :
    plotPixel x0 y b (acc.map id (·.setKey k)) c = (plotPixel x0 y b acc c).map id (·.setKey k) := by
  unfold plotPixel
  split
  · simp only [Prod.map_snd, State.plotXor_setKey]
    split <;> rfl
  · rfl

theorem plotRow_setKey (x0 y : Nat) (b : Byte) (acc : Bool × State) (k : KeyLatch) :
    plotRow x0 y b (acc.map id (·.setKey k)) = (plotRow x0 y b acc).map id (·.setKey k) :=
  List.foldl_hom _ fun acc c => plotPixel_setKey x0 y b acc c k

theorem plotRows_setKey (x0 y0 i0 : Nat) (rs : List Nat) (acc : Bool × State) (k : KeyLatch) :
    plotRows x0 y0 i0 rs (acc.map id (·.setKey k)) =
      ((plotRows x0 y0 i0 rs acc).1.map id (·.setKey k), (plotRows x0 y0 i0 rs acc).2) := by
  induction rs generalizing acc with
  | nil => rfl
  | cons r rs ih =>
    by_cases h : i0 + r < acc.2.cfg.memSize
    · simp only [plotRows, State.readByte_of_lt h, State.readByte_of_lt (s := (acc.map id (·.setKey k)).2) h, ← ih,
        ← plotRow_setKey]
      rfl
    · simp only [plotRows, State.readByte_of_ge (not_lt.1 h),
        State.readByte_of_ge (s := (acc.map id (·.setKey k)).2) (not_lt.1 h)]

theorem finishDraw_setKey (i : Instr) (r : (Bool × State) × Option Nat) (k : KeyLatch) :
    finishDraw i (r.1.map id (·.setKey k), r.2) = (finishDraw i r).setKey k := by
  obtain ⟨⟨_ | _, s⟩, _ | a⟩ := r <;> rfl

theorem finishDraw_cause (i : Instr) (r : (Bool × State) × Option Nat) :
    (finishDraw i r).run = r.1.2.run ∨ (finishDraw i r).halt.cause ≠ .keyCancel := by
  obtain ⟨⟨p, s⟩, _ | a⟩ := r
  · cases p <;> exact .inl rfl
  · exact .inr nofun

theorem plotRows_run (x0 y0 i0 n : Nat) (s : State) :
    (plotRows x0 y0 i0 (List.range n) (false, s)).1.2.run = s.run := by
  rcases plotRows_cases x0 y0 i0 n s with ⟨t, -, e, hp⟩ | ⟨_, _, t, -, -, e, hp⟩ <;> rw [e, hp.frame] <;> rfl

/-! ## The instructions outside the input gate -/

theorem keyBlind_setDrawnByte (x : RegNo) (kk : Byte) :
    KeyBlind fun s => s.drawByte.2.setReg x (s.drawByte.1 &&& kk) where
  setKey s k := by rw [s.drawByte_setKey]; rfl
  cause s := .inl s.drawByte_run

theorem exec_rnd_keyBlind (x : RegNo) (kk : Byte) : ∃ f, KeyBlind f ∧ ∀ s, exec (.rnd x kk) s = .next (f s) :=
  ⟨fun s => if s.qcfg.admitRnd then s.drawByte.2.setReg x (s.drawByte.1 &&& kk)
      else s.haltIn (.rnd x kk) .undefinedOpcode 0 0,
    .ite (fun _ _ => rfl) (keyBlind_setDrawnByte x kk)
      (keyBlind_haltIn _ (by decide) (fun _ _ => rfl) fun _ _ => rfl),
    fun _ => (apply_ite Host.Outcome.next _ _ _).symm⟩

theorem exec_drw_keyBlind (x y : RegNo) (n : Nibble) : ∃ f, KeyBlind f ∧ ∀ s, exec (.drw x y n) s = .next (f s) := by
  refine ⟨_, ⟨fun s k => ?_, fun s => ?_⟩, fun _ => rfl⟩
  · rw [← finishDraw_setKey, ← plotRows_setKey]; rfl
  · exact (finishDraw_cause _ _).imp_left fun e => e.trans (plotRows_run _ _ _ _ _)

/-- Outside the input gate an instruction answers a function of the state that the latch does not reach. -/
theorem exec_keyBlind {i : Instr} (hskp : ∀ x, i ≠ .skp x) (hsknp : ∀ x, i ≠ .sknp x) (hk : ∀ x, i ≠ .ldVxK x) :
    ∃ f, KeyBlind f ∧ ∀ s, exec i s = .next (f s) := by
  cases i
  case skp x => exact absurd rfl (hskp x)
  case sknp x => exact absurd rfl (hsknp x)
  case ldVxK x => exact absurd rfl (hk x)
  case rnd x kk => exact exec_rnd_keyBlind x kk
  case drw x y n => exact exec_drw_keyBlind x y n
  case call nnn => exact ⟨_, keyBlind_callTo _ nnn.toNat, fun _ => rfl⟩
  case ret => exact ⟨_, keyBlind_returnFrom _, fun _ => rfl⟩
  case exitVx x =>
    exact ⟨fun s => s.haltIn (.exitVx x) .exit 0 (s.reg x),
      keyBlind_haltIn _ (by decide) (fun _ _ => rfl) fun _ _ => rfl, fun _ => rfl⟩
  case jp | jpV0 => exact ⟨_, keyBlind_jumpTo _ fun _ _ => rfl, fun _ => rfl⟩
  case seVxKk | sneVxKk | seVxVy | sneVxVy => exact ⟨_, keyBlind_skipIf _ fun _ _ => rfl, fun _ => rfl⟩
  case ldBVx | ldMemVx => exact ⟨_, keyBlind_storeBlock _ _ (fun _ _ => rfl) fun _ _ => rfl, fun _ => rfl⟩
  case ldVxMem => exact ⟨_, keyBlind_loadBlock _ _ _ fun _ _ => rfl, fun _ => rfl⟩
  all_goals
    refine ⟨_, ?_, fun _ => rfl⟩
    exact ⟨fun _ _ => rfl, fun _ => .inl rfl⟩

/-- Settles O51: `exec_keyBlind` gives the effect with the other latch, and a halt of a running state changes `RUN`, so
its cause is not `KeyCancel`. -/
theorem onlyInputInstructionsSeeTheKey : Obligations.OnlyInputInstructionsSeeTheKey := by
  intro i s t k hskp hsknp hk h
  obtain ⟨f, hf, hexec⟩ := exec_keyBlind hskp hsknp hk
  obtain rfl : f s = t := Host.Outcome.next.inj ((hexec s).symm.trans h)
  refine ⟨(hexec _).trans (congrArg _ (hf.setKey s k)), fun hrun hhalt => (hf.cause s).resolve_left fun e => ?_⟩
  rw [hrun, hhalt] at e
  cases e

end Sys2Proof.Machine
end

section
/-! The family of 47_execution_engine.md: the halted state, and the instruction that asks for it. -/

namespace Sys2Proof.Machine

/-! ## A transition in `Halted` (R252) -/

/-- In `Halted` every transition but a reset moves the schedule on and changes at most the latch. -/
theorem step_of_halted {s : State} (h : s.run = .halted) (hr : ∀ q prog, s.due ≠ .reset q prog) :
    ∃ k, step s = .next { s.popDue with key := k } := by
  have hpop : s.popDue.run = .halted := h
  rcases step_cases s with ⟨-, e⟩ | ⟨-, e⟩ | ⟨k, -, e⟩ | ⟨q, prog, hdue, -⟩
  · exact ⟨s.key, e.trans (engineStep_halted hpop)⟩
  · exact ⟨s.key, e.trans (congrArg _ (tick_halted hpop))⟩
  · exact ⟨k, e⟩
  · exact absurd hdue (hr q prog)

/-- Settles O11: a `Step()` is the identity by `engineStep_halted`, and `step_of_halted` leaves `RUN` as it was. -/
theorem haltedIsTerminal : Obligations.HaltedIsTerminal := by
  intro s h
  refine ⟨engineStep_halted h, fun hr => ?_⟩
  obtain ⟨k, hstep⟩ := step_of_halted h hr
  exact ⟨{ s.popDue with key := k }, hstep, h⟩

/-! ## `EXIT Vx` (R249) -/

theorem encode_exitVx (x : RegNo) : encode (.exitVx x) = (0xF#4 ++ x ++ 0x00#8 : Word) := rfl

theorem exec_exitVx (x : RegNo) (s : State) :
    exec (.exitVx x) s = .next (s.haltIn (.exitVx x) .exit 0 (s.reg x)) := rfl

/-- A halt writes `RUN` and the record only (R251). -/
theorem State.haltIn_eq (s : State) (i : Instr) (k : Cause) (a : Nat) (e : Byte) :
    s.haltIn i k a e = { s with run := .halted, halt := (s.haltIn i k a e).halt } := rfl

/-- A halt leaves every byte of memory as it was. -/
theorem sameBytes_haltIn (s : State) (i : Instr) (k : Cause) (a : Nat) (e : Byte) : SameBytes s (s.haltIn i k a e) :=
  State.byteAt_congr (s.haltIn_mem i k a e) (s.haltIn_cfg i k a e)

/-- Settles O16: the whole effect of `EXIT Vx` is one `haltIn` whose exit code is `V[X]`, for every `X`. -/
theorem exitHaltsWithTheRegister : Obligations.ExitHaltsWithTheRegister :=
  fun x s => ⟨encode_exitVx x, s.haltIn (.exitVx x) .exit 0 (s.reg x), exec_exitVx x s, s.haltIn_run _ _ _ _,
    congrArg HaltRecord.cause (s.haltIn_halt _ _ _ _), congrArg HaltRecord.exit (s.haltIn_halt _ _ _ _),
    s.haltIn_eq _ _ _ _, sameBytes_haltIn s _ _ _ _⟩

end Sys2Proof.Machine
end

section
/-! The family of 70_reset_and_hazards.md: the configuration of a session. -/

namespace Sys2Proof.Machine

/-! ## What a session fixes (R304; 10_state.md R45) -/

/-- `t` has the configuration, the parameters and the program end of `s`. -/
def SameConfiguration (s t : State) : Prop :=
  t.qcfg = s.qcfg ∧ t.cfg = s.cfg ∧ t.progEnd = s.progEnd

theorem exec_sameConfiguration {i : Instr} {s t : State} (h : exec i s = .next t) : SameConfiguration s t := by
  obtain ⟨hcfg, hqcfg, hend, -⟩ := exec_session h
  exact ⟨hqcfg, hcfg, hend⟩

theorem sameConfiguration_haltAt (s : State) (k : Cause) (pc0 w : Word) (a : Nat) (e : Byte) :
    SameConfiguration s (s.haltAt k pc0 w a e) :=
  ⟨s.haltAt_qcfg k pc0 w a e, s.haltAt_cfg k pc0 w a e, s.haltAt_progEnd k pc0 w a e⟩

theorem execWord_sameConfiguration {w : Word} {s t : State} (h : execWord w s = .next t) : SameConfiguration s t := by
  cases hw : decode w with
  | ok i => exact exec_sameConfiguration ((execWord_ok hw s).symm.trans h)
  | error r =>
    cases (execWord_error hw s).symm.trans h
    exact sameConfiguration_haltAt s _ _ _ _ _

/-- A `Step()` halts in the fetch, runs a word past which `PC` has moved, or does nothing in `Halted`. -/
theorem engineStep_sameConfiguration {s t : State} (h : engineStep s = .next t) : SameConfiguration s t := by
  rcases s.run_cases with hrun | hrun
  · rcases engineStep_cases hrun with ⟨-, e⟩ | ⟨-, -, e⟩ | ⟨-, -, e⟩
    · cases e.symm.trans h
      exact sameConfiguration_haltAt s _ _ _ _ _
    · cases e.symm.trans h
      exact sameConfiguration_haltAt s _ _ _ _ _
    · exact execWord_sameConfiguration (s := { s with pc := s.pc + 2 }) (e.symm.trans h)
  · cases (engineStep_halted hrun).symm.trans h
    exact ⟨rfl, rfl, rfl⟩

theorem tick_sameConfiguration (s : State) : SameConfiguration s (tick s) := by
  rw [tick_frame]
  exact ⟨rfl, rfl, rfl⟩

/-- Settles O54: the schedule moves on without touching the configuration, then one case for each transition that is
no reset. -/
theorem sessionConfigurationIsConstant : Obligations.SessionConfigurationIsConstant := by
  intro s t hreset h
  rcases step_cases s with ⟨-, e⟩ | ⟨-, e⟩ | ⟨k, -, e⟩ | ⟨q, prog, hdue, -⟩
  · exact engineStep_sameConfiguration (s := s.popDue) (e.symm.trans h)
  · cases e.symm.trans h
    exact tick_sameConfiguration s.popDue
  · cases e.symm.trans h
    exact ⟨rfl, rfl, rfl⟩
  · exact absurd hdue (hreset q prog)

end Sys2Proof.Machine
end

section
/-! The family of 30_encoding.md: words and the instructions they select. -/

namespace Sys2Proof

/-! ## The decoder, group by group (R105) -/

section
variable {w : Word}

theorem decode_of_group0 (hg : fieldG w = 0x0) : decode w = decodeGroup0 w := by
  simp [decode, hg]

theorem decode_of_group1 (hg : fieldG w = 0x1) : decode w = .ok (.jp (fieldNNN w)) := by
  simp [decode, hg]

theorem decode_of_group2 (hg : fieldG w = 0x2) : decode w = .ok (.call (fieldNNN w)) := by
  simp [decode, hg]

theorem decode_of_group3 (hg : fieldG w = 0x3) : decode w = .ok (.seVxKk (fieldX w) (fieldKK w)) := by
  simp [decode, hg]

theorem decode_of_group4 (hg : fieldG w = 0x4) : decode w = .ok (.sneVxKk (fieldX w) (fieldKK w)) := by
  simp [decode, hg]

theorem decode_of_group5 (hg : fieldG w = 0x5) : decode w = decodeN0 w (.seVxVy (fieldX w) (fieldY w)) := by
  simp [decode, hg]

theorem decode_of_group6 (hg : fieldG w = 0x6) : decode w = .ok (.ldVxKk (fieldX w) (fieldKK w)) := by
  simp [decode, hg]

theorem decode_of_group7 (hg : fieldG w = 0x7) : decode w = .ok (.addVxKk (fieldX w) (fieldKK w)) := by
  simp [decode, hg]

theorem decode_of_group8 (hg : fieldG w = 0x8) : decode w = decodeGroup8 w := by
  simp [decode, hg]

theorem decode_of_group9 (hg : fieldG w = 0x9) : decode w = decodeN0 w (.sneVxVy (fieldX w) (fieldY w)) := by
  simp [decode, hg]

theorem decode_of_groupA (hg : fieldG w = 0xA) : decode w = .ok (.ldI (fieldNNN w)) := by
  simp [decode, hg]

theorem decode_of_groupB (hg : fieldG w = 0xB) : decode w = .ok (.jpV0 (fieldNNN w)) := by
  simp [decode, hg]

theorem decode_of_groupC (hg : fieldG w = 0xC) : decode w = .ok (.rnd (fieldX w) (fieldKK w)) := by
  simp [decode, hg]

theorem decode_of_groupD (hg : fieldG w = 0xD) : decode w = .ok (.drw (fieldX w) (fieldY w) (fieldN w)) := by
  simp [decode, hg]

theorem decode_of_groupE (hg : fieldG w = 0xE) : decode w = decodeGroupE w := by
  simp [decode, hg]

theorem decode_of_groupF (hg : fieldG w = 0xF) : decode w = decodeGroupF w := by
  simp [decode, hg]

end

/-! ## Decoding the word of an instruction (R103, R105) -/

/-- The fields of a packed word select the row it was packed for. -/
theorem decode_encode (i : Instr) : decode (encode i) = .ok i := by
  cases i
  case cls | ret => rfl
  case jp | call | ldI | jpV0 => simp [encode, decode]
  case seVxKk | sneVxKk | ldVxKk | addVxKk | rnd => simp [encode, decode]
  case drw => simp [encode, decode]
  case seVxVy | sneVxVy => simp [encode, decode, decodeN0]
  case ldVxVy | orVxVy | andVxVy | xorVxVy | addVxVy | subVxVy | shrVxVy | subnVxVy | shlVxVy =>
    simp [encode, decode, decodeGroup8]
  case skp | sknp => simp [encode, decode, decodeGroupE]
  case exitVx | ldVxDt | ldVxK | ldDtVx | ldStVx | addIVx | ldFVx | ldBVx | ldMemVx | ldVxMem =>
    simp [encode, decode, decodeGroupF]

/-- Settles O2: on bytes the two halves of the word come together again, so `decode_encode` applies. -/
theorem decodeOfEncodeIsTheInstruction : Obligations.DecodeOfEncodeIsTheInstruction := by
  intro i
  refine ⟨decode_encode i, fun rest => ?_⟩
  simp only [encodeBytes, List.cons_append, List.nil_append, decodeBytes, wordOfBytes, fieldHI_append_fieldKK,
    decode_encode]
  rfl

/-! ## The word of a decoded instruction -/

theorem packA_of_fieldG {w : Word} {g : Nibble} (h : fieldG w = g) : packA g (fieldNNN w) = w := by
  rw [← h, packA_fields]

theorem packK_of_fields {w : Word} {g : Nibble} {kk : Byte} (h : fieldG w = g) (hkk : fieldKK w = kk) :
    packK g (fieldX w) kk = w := by
  rw [← h, ← hkk, packK_fields]

theorem packR_of_fields {w : Word} {g n : Nibble} (h : fieldG w = g) (hn : fieldN w = n) :
    packR g (fieldX w) (fieldY w) n = w := by
  rw [← h, ← hn, packR_fields]

theorem eq_of_bytes {w : Word} {hi lo : Byte} (hhi : fieldHI w = hi) (hlo : fieldKK w = lo) : hi ++ lo = w := by
  rw [← hhi, ← hlo, fieldHI_append_fieldKK]

/-- A field is known by its number. -/
theorem eq_ofNat_of_toNat {n k : Nat} {b : BitVec n} (h : b.toNat = k) : b = BitVec.ofNat n k := by
  rw [← h, BitVec.ofNat_toNat, BitVec.setWidth_eq]

theorem encode_of_decodeGroup0 {w : Word} {i : Instr} (h : decodeGroup0 w = .ok i) : encode i = w := by
  unfold decodeGroup0 at h
  split at h <;> cases h <;> rename_i hhi hlo
  all_goals exact eq_of_bytes (eq_ofNat_of_toNat hhi) (eq_ofNat_of_toNat hlo)

theorem decodeN0_eq_ok {w : Word} {i j : Instr} (h : decodeN0 w i = .ok j) : fieldN w = 0 ∧ j = i := by
  unfold decodeN0 at h
  split at h <;> cases h
  exact ⟨eq_ofNat_of_toNat ‹_›, rfl⟩

theorem encode_of_decodeGroup8 {w : Word} {i : Instr} (hg : fieldG w = 0x8) (h : decodeGroup8 w = .ok i) :
    encode i = w := by
  unfold decodeGroup8 at h
  split at h <;> cases h <;> rename_i hn
  all_goals exact packR_of_fields hg (eq_ofNat_of_toNat hn)

theorem encode_of_decodeGroupE {w : Word} {i : Instr} (hg : fieldG w = 0xE) (h : decodeGroupE w = .ok i) :
    encode i = w := by
  unfold decodeGroupE at h
  split at h <;> cases h <;> rename_i hkk
  all_goals exact packK_of_fields hg (eq_ofNat_of_toNat hkk)

theorem encode_of_decodeGroupF {w : Word} {i : Instr} (hg : fieldG w = 0xF) (h : decodeGroupF w = .ok i) :
    encode i = w := by
  unfold decodeGroupF at h
  split at h <;> cases h <;> rename_i hkk
  all_goals exact packK_of_fields hg (eq_ofNat_of_toNat hkk)

theorem nibble_cases (g : Nibble) :
    g = 0x0 ∨ g = 0x1 ∨ g = 0x2 ∨ g = 0x3 ∨ g = 0x4 ∨ g = 0x5 ∨ g = 0x6 ∨ g = 0x7 ∨
    g = 0x8 ∨ g = 0x9 ∨ g = 0xA ∨ g = 0xB ∨ g = 0xC ∨ g = 0xD ∨ g = 0xE ∨ g = 0xF := by
  revert g
  decide

/-- Whatever the group, the instruction packs again the fields it was read from. -/
theorem encode_of_decode {w : Word} {i : Instr} (h : decode w = .ok i) : encode i = w := by
  rcases nibble_cases (fieldG w) with
    hg | hg | hg | hg | hg | hg | hg | hg | hg | hg | hg | hg | hg | hg | hg | hg
  · rw [decode_of_group0 hg] at h; exact encode_of_decodeGroup0 h
  · rw [decode_of_group1 hg] at h; cases h; exact packA_of_fieldG hg
  · rw [decode_of_group2 hg] at h; cases h; exact packA_of_fieldG hg
  · rw [decode_of_group3 hg] at h; cases h; exact packK_of_fields hg rfl
  · rw [decode_of_group4 hg] at h; cases h; exact packK_of_fields hg rfl
  · rw [decode_of_group5 hg] at h; obtain ⟨hn, rfl⟩ := decodeN0_eq_ok h; exact packR_of_fields hg hn
  · rw [decode_of_group6 hg] at h; cases h; exact packK_of_fields hg rfl
  · rw [decode_of_group7 hg] at h; cases h; exact packK_of_fields hg rfl
  · rw [decode_of_group8 hg] at h; exact encode_of_decodeGroup8 hg h
  · rw [decode_of_group9 hg] at h; obtain ⟨hn, rfl⟩ := decodeN0_eq_ok h; exact packR_of_fields hg hn
  · rw [decode_of_groupA hg] at h; cases h; exact packA_of_fieldG hg
  · rw [decode_of_groupB hg] at h; cases h; exact packA_of_fieldG hg
  · rw [decode_of_groupC hg] at h; cases h; exact packK_of_fields hg rfl
  · rw [decode_of_groupD hg] at h; cases h; exact packR_of_fields hg rfl
  · rw [decode_of_groupE hg] at h; exact encode_of_decodeGroupE hg h
  · rw [decode_of_groupF hg] at h; exact encode_of_decodeGroupF hg h

/-- Settles O3: `encode_of_decode`, so no two words mean the same. -/
theorem encodeOfDecodeIsTheWord : Obligations.EncodeOfDecodeIsTheWord :=
  fun _ _ => encode_of_decode

/-! ## The opcode map (R105) -/

/-- Where the mask of a row keeps a whole field, the word has the field of the pattern. -/
theorem fieldG_of_row {w m p : Word} (h : w &&& m = p) (hm : fieldG m = 0xF) : fieldG w = fieldG p := by
  rw [← h, fieldG, fieldG, BitVec.extractLsb'_and, ← fieldG, ← fieldG, hm]
  exact BitVec.and_allOnes.symm

theorem fieldN_of_row {w m p : Word} (h : w &&& m = p) (hm : fieldN m = 0xF) : fieldN w = fieldN p := by
  rw [← h, fieldN, fieldN, BitVec.extractLsb'_and, ← fieldN, ← fieldN, hm]
  exact BitVec.and_allOnes.symm

theorem fieldKK_of_row {w m p : Word} (h : w &&& m = p) (hm : fieldKK m = 0xFF) : fieldKK w = fieldKK p := by
  rw [← h, fieldKK, fieldKK, BitVec.extractLsb'_and, ← fieldKK, ← fieldKK, hm]
  exact BitVec.and_allOnes.symm

theorem eq_of_row_full {w p : Word} (h : w &&& 0xFFFF = p) : w = p :=
  BitVec.and_allOnes.symm.trans h

@[simp] theorem fieldG_ofNat (k : Nat) : fieldG (BitVec.ofNat 16 k) = BitVec.ofNat 4 (k / 4096) := by
  apply BitVec.eq_of_toNat_eq
  simp [fieldG, Nat.shiftRight_eq_div_pow]
  omega

@[simp] theorem fieldN_ofNat (k : Nat) : fieldN (BitVec.ofNat 16 k) = BitVec.ofNat 4 k := by
  apply BitVec.eq_of_toNat_eq
  simp [fieldN]

@[simp] theorem fieldKK_ofNat (k : Nat) : fieldKK (BitVec.ofNat 16 k) = BitVec.ofNat 8 k := by
  apply BitVec.eq_of_toNat_eq
  simp [fieldKK]

/-- A word that meets the pattern of a row decodes to an instruction of that row: the mask keeps the fields the decoder
looks at, and no other. -/
theorem decode_of_row {w : Word} {j : Instr} (h : w &&& j.opRow.mask = j.opRow.pat) :
    ∃ i, decode w = .ok i ∧ i.opRow = j.opRow := by
  cases j <;> simp only [Instr.opRow] at h ⊢
  case cls => rw [eq_of_row_full h]; exact ⟨_, decode_encode .cls, rfl⟩
  case ret => rw [eq_of_row_full h]; exact ⟨_, decode_encode .ret, rfl⟩
  case jp | call | seVxKk | sneVxKk | ldVxKk | addVxKk | ldI | jpV0 | rnd | drw =>
    simp [decode, fieldG_of_row h rfl]
  case seVxVy | sneVxVy => simp [decode, decodeN0, fieldG_of_row h rfl, fieldN_of_row h rfl]
  case ldVxVy | orVxVy | andVxVy | xorVxVy | addVxVy | subVxVy | shrVxVy | subnVxVy | shlVxVy =>
    simp [decode, decodeGroup8, fieldG_of_row h rfl, fieldN_of_row h rfl]
  case skp | sknp => simp [decode, decodeGroupE, fieldG_of_row h rfl, fieldKK_of_row h rfl]
  case exitVx | ldVxDt | ldVxK | ldDtVx | ldStVx | addIVx | ldFVx | ldBVx | ldMemVx | ldVxMem =>
    simp [decode, decodeGroupF, fieldG_of_row h rfl, fieldKK_of_row h rfl]

/-- The word of an instruction meets the pattern of its row. -/
theorem encode_and_mask (i : Instr) : encode i &&& i.opRow.mask = i.opRow.pat :=
  match i with
  | .cls => Laws.EncodesToItsRow.cls
  | .ret => Laws.EncodesToItsRow.ret
  | .jp nnn => Laws.EncodesToItsRow.jp nnn
  | .call nnn => Laws.EncodesToItsRow.call nnn
  | .seVxKk x kk => Laws.EncodesToItsRow.seVxKk x kk
  | .sneVxKk x kk => Laws.EncodesToItsRow.sneVxKk x kk
  | .seVxVy x y => Laws.EncodesToItsRow.seVxVy x y
  | .ldVxKk x kk => Laws.EncodesToItsRow.ldVxKk x kk
  | .addVxKk x kk => Laws.EncodesToItsRow.addVxKk x kk
  | .ldVxVy x y => Laws.EncodesToItsRow.ldVxVy x y
  | .orVxVy x y => Laws.EncodesToItsRow.orVxVy x y
  | .andVxVy x y => Laws.EncodesToItsRow.andVxVy x y
  | .xorVxVy x y => Laws.EncodesToItsRow.xorVxVy x y
  | .addVxVy x y => Laws.EncodesToItsRow.addVxVy x y
  | .subVxVy x y => Laws.EncodesToItsRow.subVxVy x y
  | .shrVxVy x y => Laws.EncodesToItsRow.shrVxVy x y
  | .subnVxVy x y => Laws.EncodesToItsRow.subnVxVy x y
  | .shlVxVy x y => Laws.EncodesToItsRow.shlVxVy x y
  | .sneVxVy x y => Laws.EncodesToItsRow.sneVxVy x y
  | .ldI nnn => Laws.EncodesToItsRow.ldI nnn
  | .jpV0 nnn => Laws.EncodesToItsRow.jpV0 nnn
  | .rnd x kk => Laws.EncodesToItsRow.rnd x kk
  | .drw x y n => Laws.EncodesToItsRow.drw x y n
  | .skp x => Laws.EncodesToItsRow.skp x
  | .sknp x => Laws.EncodesToItsRow.sknp x
  | .exitVx x => Laws.EncodesToItsRow.exitVx x
  | .ldVxDt x => Laws.EncodesToItsRow.ldVxDt x
  | .ldVxK x => Laws.EncodesToItsRow.ldVxK x
  | .ldDtVx x => Laws.EncodesToItsRow.ldDtVx x
  | .ldStVx x => Laws.EncodesToItsRow.ldStVx x
  | .addIVx x => Laws.EncodesToItsRow.addIVx x
  | .ldFVx x => Laws.EncodesToItsRow.ldFVx x
  | .ldBVx x => Laws.EncodesToItsRow.ldBVx x
  | .ldMemVx x => Laws.EncodesToItsRow.ldMemVx x
  | .ldVxMem x => Laws.EncodesToItsRow.ldVxMem x

/-- Settles O4: the forward direction is `decode_of_row`; backwards the word is the encoding of its instruction, which
lies on its row. -/
theorem decoderFollowsTheOpcodeMap : Obligations.DecoderFollowsTheOpcodeMap := by
  intro w j
  refine ⟨decode_of_row, ?_⟩
  rintro ⟨i, hdec, hrow⟩
  rw [← encode_of_decode hdec, ← hrow]
  exact encode_and_mask i

/-! ## The undefined words (R107) -/

theorem decodeN0_defined {w : Word} {i : Instr} {q : QCfg} (hi : i.wellFormed q = true) :
    (∃ j, decodeN0 w i = .ok j ∧ j.wellFormed q = true) ↔ fieldN w = 0 := by
  constructor
  · rintro ⟨j, h, -⟩
    exact (decodeN0_eq_ok h).1
  · intro h
    exact ⟨i, by simp [decodeN0, h], hi⟩

theorem decodeGroup0_defined (q : QCfg) (w : Word) :
    (∃ i, decodeGroup0 w = .ok i ∧ i.wellFormed q = true) ↔ w = 0x00E0 ∨ w = 0x00EE := by
  constructor
  · rintro ⟨i, h, -⟩
    rw [← encode_of_decodeGroup0 h]
    unfold decodeGroup0 at h
    split at h <;> cases h
    · exact .inl rfl
    · exact .inr rfl
  · rintro (rfl | rfl)
    · exact ⟨.cls, rfl, rfl⟩
    · exact ⟨.ret, rfl, rfl⟩

theorem decodeGroup8_defined (q : QCfg) (w : Word) :
    (∃ i, decodeGroup8 w = .ok i ∧ i.wellFormed q = true) ↔ fieldN w ∉ [0x8, 0x9, 0xA, 0xB, 0xC, 0xD, 0xF] := by
  rcases nibble_cases (fieldN w) with
    hn | hn | hn | hn | hn | hn | hn | hn | hn | hn | hn | hn | hn | hn | hn | hn
  all_goals simp [decodeGroup8, hn, Instr.wellFormed]

theorem decodeGroupE_defined (q : QCfg) (w : Word) :
    (∃ i, decodeGroupE w = .ok i ∧ i.wellFormed q = true) ↔ fieldKK w ∈ [0x9E, 0xA1] := by
  constructor
  · rintro ⟨i, h, -⟩
    unfold decodeGroupE at h
    split at h <;> cases h <;> rename_i hkk <;> rw [eq_ofNat_of_toNat hkk] <;> decide
  · intro h
    simp only [List.mem_cons, List.not_mem_nil, or_false] at h
    rcases h with h | h <;> simp [decodeGroupE, h, Instr.wellFormed]

theorem decodeGroupF_defined (q : QCfg) (w : Word) :
    (∃ i, decodeGroupF w = .ok i ∧ i.wellFormed q = true) ↔
      fieldKK w ∈ [0x00, 0x07, 0x0A, 0x15, 0x18, 0x1E, 0x29, 0x33, 0x55, 0x65] := by
  constructor
  · rintro ⟨i, h, -⟩
    unfold decodeGroupF at h
    split at h <;> cases h <;> rename_i hkk <;> rw [eq_ofNat_of_toNat hkk] <;> decide
  · intro h
    simp only [List.mem_cons, List.not_mem_nil, or_false] at h
    rcases h with h | h | h | h | h | h | h | h | h | h <;> simp [decodeGroupF, h, Instr.wellFormed]

/-- Settles O5: one case per group. In the groups without a second look every word is an instruction, group 0xC where
the configuration has it. -/
theorem undefinedWordsAreExactlyTheTable : Obligations.UndefinedWordsAreExactlyTheTable := by
  intro q w
  rcases nibble_cases (fieldG w) with
    hg | hg | hg | hg | hg | hg | hg | hg | hg | hg | hg | hg | hg | hg | hg | hg
  · rw [decode_of_group0 hg, decodeGroup0_defined]; simp [hg]
  · rw [decode_of_group1 hg]; simp [hg, Instr.wellFormed]
  · rw [decode_of_group2 hg]; simp [hg, Instr.wellFormed]
  · rw [decode_of_group3 hg]; simp [hg, Instr.wellFormed]
  · rw [decode_of_group4 hg]; simp [hg, Instr.wellFormed]
  · rw [decode_of_group5 hg, decodeN0_defined (by rfl)]; simp [hg]
  · rw [decode_of_group6 hg]; simp [hg, Instr.wellFormed]
  · rw [decode_of_group7 hg]; simp [hg, Instr.wellFormed]
  · rw [decode_of_group8 hg, decodeGroup8_defined, not_not]; simp [hg]
  · rw [decode_of_group9 hg, decodeN0_defined (by rfl)]; simp [hg]
  · rw [decode_of_groupA hg]; simp [hg, Instr.wellFormed]
  · rw [decode_of_groupB hg]; simp [hg, Instr.wellFormed]
  · rw [decode_of_groupC hg]; simp [hg, Instr.wellFormed]
  · rw [decode_of_groupD hg]; simp [hg, Instr.wellFormed]
  · rw [decode_of_groupE hg, decodeGroupE_defined]; simp [hg]
  · rw [decode_of_groupF hg, decodeGroupF_defined]; simp [hg]

/-- Settles O6: each word's fields are numbers, and the decoder is run on them. -/
theorem sampleWordsDecode : Obligations.SampleWordsDecode := by
  unfold Obligations.SampleWordsDecode
  decide

end Sys2Proof
end

section
/-! The state every instruction answers, and the family of 41_control_flow.md. -/

namespace Sys2Proof.Machine

/-! ## The effect of an instruction as a state (47_execution_engine.md R248, R256) -/

/-- The state `exec i s` answers: `exec` with the meanings written out in the shared operations. -/
def effect (i : Instr) (s : State) : State :=
  match i with
  | .cls => (s.request .clear).request .redraw
  | .ret => s.returnFrom .ret
  | .jp nnn => s.jumpTo (.jp nnn) nnn.toNat
  | .call nnn => s.callTo (.call nnn) nnn.toNat
  | .seVxKk x kk => s.skipIf (.seVxKk x kk) (decide (s.reg x = kk))
  | .sneVxKk x kk => s.skipIf (.sneVxKk x kk) (decide (s.reg x ≠ kk))
  | .seVxVy x y => s.skipIf (.seVxVy x y) (decide (s.reg x = s.reg y))
  | .ldVxKk x kk => s.setReg x kk
  | .addVxKk x kk => s.setReg x (addResult (s.reg x) kk)
  | .ldVxVy x y => s.setReg x (s.reg y)
  | .orVxVy x y => s.setReg x (s.reg x ||| s.reg y)
  | .andVxVy x y => s.setReg x (s.reg x &&& s.reg y)
  | .xorVxVy x y => s.setReg x (s.reg x ^^^ s.reg y)
  | .addVxVy x y => s.setResultAndFlag x (addResult (s.reg x) (s.reg y)) (addFlag (s.reg x) (s.reg y))
  | .subVxVy x y => s.setResultAndFlag x (subResult (s.reg x) (s.reg y)) (subFlag (s.reg x) (s.reg y))
  | .shrVxVy x y => s.setResultAndFlag x (shrResult (s.shiftSrc x y)) (shrFlag (s.shiftSrc x y))
  | .subnVxVy x y => s.setResultAndFlag x (subResult (s.reg y) (s.reg x)) (subFlag (s.reg y) (s.reg x))
  | .shlVxVy x y => s.setResultAndFlag x (shlResult (s.shiftSrc x y)) (shlFlag (s.shiftSrc x y))
  | .sneVxVy x y => s.skipIf (.sneVxVy x y) (decide (s.reg x ≠ s.reg y))
  | .ldI nnn => { s with idx := nnn.setWidth 16 }
  | .jpV0 nnn => s.jumpTo (.jpV0 nnn) (s.indirectTarget nnn)
  | .rnd x kk =>
    if s.qcfg.admitRnd then s.drawByte.2.setReg x (s.drawByte.1 &&& kk) else s.haltIn (.rnd x kk) .undefinedOpcode 0 0
  | .drw x y n =>
    finishDraw (.drw x y n) (plotRows (s.reg x).toNat (s.reg y).toNat (s.dataAddr 0)
      (List.range (spriteRows s.qcfg n)) (false, s.setReg flagReg 0))
  | .skp x => if s.key = .cancel then s.haltIn (.skp x) .keyCancel 0 0 else s.skipIf (.skp x) (s.keyIs (s.reg x))
  | .sknp x => if s.key = .cancel then s.haltIn (.sknp x) .keyCancel 0 0 else s.skipIf (.sknp x) (!s.keyIs (s.reg x))
  | .exitVx x => s.haltIn (.exitVx x) .exit 0 (s.reg x)
  | .ldVxDt x => s.setReg x s.dt
  | .ldVxK x =>
    match s.key with
    | .none => { s with pc := s.pc - 2 }
    | .cancel => s.haltIn (.ldVxK x) .keyCancel 0 0
    | .key k => s.setReg x k
  | .ldDtVx x => { s with dt := s.reg x }
  | .ldStVx x => ({ s with st := s.reg x }).request (.startTone (s.reg x))
  | .addIVx x => { s with idx := BitVec.ofNat 16 (s.idx.toNat + (s.reg x).toNat) }
  | .ldFVx x => { s with idx := fontAddr s.cfg (s.reg x) }
  | .ldBVx x => finishBlock (.ldBVx x) 3 (storeRun (s.dataAddr 0) (bcdDigits (s.reg x)) s)
  | .ldMemVx x =>
    finishBlock (.ldMemVx x) (regRange 0 x).length (storeRun (s.dataAddr 0) ((regRange 0 x).map s.reg) s)
  | .ldVxMem x => finishBlock (.ldVxMem x) (regRange 0 x).length (loadRun (s.dataAddr 0) (regRange 0 x) s)

/-- Every instruction answers a next state. -/
theorem exec_eq_effect (i : Instr) (s : State) : exec i s = .next (effect i s) := by
  cases i
  case rnd => exact (apply_ite Host.Outcome.next _ _ _).symm
  case skp | sknp => exact (apply_ite Host.Outcome.next _ _ _).symm
  case ldVxK => cases h : s.key <;> simp only [exec, execLdVxK, State.keyCancel, effect, h]
  all_goals rfl

theorem eq_effect_of_exec {i : Instr} {s t : State} (h : exec i s = .next t) : t = effect i s :=
  Host.Outcome.next.inj (h.symm.trans (exec_eq_effect i s))

/-! ## What only some instructions change (10_state.md R34, R35, R37, R41; 20_memory.md R77) -/

/-- R37: the stack. -/
theorem effect_stack {i : Instr} (hcall : ∀ nnn, i ≠ .call nnn) (s : State) : (effect i s).stack = s.stack := by
  cases i
  case call nnn => exact absurd rfl (hcall nnn)
  case rnd | skp | sknp | ldVxK => simp only [effect]; split <;> simp
  all_goals simp [effect]

theorem effect_sp {i : Instr} (hcall : ∀ nnn, i ≠ .call nnn) (hret : i ≠ .ret) (s : State) :
    (effect i s).sp = s.sp := by
  cases i
  case call nnn => exact absurd rfl (hcall nnn)
  case ret => exact absurd rfl hret
  case rnd | skp | sknp | ldVxK => simp only [effect]; split <;> simp
  all_goals simp [effect]

theorem effect_mem {i : Instr} (hbcd : ∀ x, i ≠ .ldBVx x) (hstore : ∀ x, i ≠ .ldMemVx x) (s : State) :
    (effect i s).mem = s.mem := by
  cases i
  case ldBVx x => exact absurd rfl (hbcd x)
  case ldMemVx x => exact absurd rfl (hstore x)
  case rnd | skp | sknp | ldVxK => simp only [effect]; split <;> simp
  all_goals simp [effect]

/-- R35: the instructions that jump, call, return, skip or wait for a key. -/
def movesPC : Instr → Bool
  | .jp _ | .call _ | .ret | .jpV0 _ | .ldVxK _ => true
  | .seVxKk _ _ | .sneVxKk _ _ | .seVxVy _ _ | .sneVxVy _ _ | .skp _ | .sknp _ => true
  | _ => false

theorem effect_pc {i : Instr} (hi : movesPC i = false) (s : State) : (effect i s).pc = s.pc := by
  cases i
  case jp | call | ret | jpV0 | ldVxK => cases hi
  case seVxKk | sneVxKk | seVxVy | sneVxVy | skp | sknp => cases hi
  case rnd => simp only [effect]; split <;> simp
  all_goals simp [effect]

/-- A skip leaves `PC` or adds 2 (R134). -/
theorem State.skipIf_pc (s : State) (i : Instr) (c : Bool) :
    (s.skipIf i c).pc = s.pc ∨ (s.skipIf i c).pc = s.pc + 2 := by
  rcases s.skipIf_cases i c with ⟨-, e⟩ | ⟨-, -, e⟩ | ⟨-, -, e⟩ <;> rw [e]
  · exact .inl rfl
  · refine .inr (BitVec.eq_of_toNat_eq ?_)
    simp
  · exact .inl rfl

/-- Settles O36: a byte depends on the memory list and the parameters, and neither has changed. -/
theorem onlyTwoInstructionsStore : Obligations.OnlyTwoInstructionsStore := by
  intro i s t h hbcd hstore
  have hcfg : t.cfg = s.cfg := (exec_session h).1
  obtain rfl := eq_effect_of_exec h
  have hmem := effect_mem hbcd hstore s
  exact ⟨hmem, State.byteAt_congr hmem hcfg⟩

/-- Settles O23: a skip by `skipIf_pc`, also behind the test of the cancel key. -/
theorem onlyControlFlowMovesThePC : Obligations.OnlyControlFlowMovesThePC := by
  intro i s t h
  obtain rfl := eq_effect_of_exec h
  cases i
  case jp | call | ret | jpV0 | ldVxK => trivial
  case seVxKk | sneVxKk | seVxVy | sneVxVy => exact s.skipIf_pc _ _
  case skp | sknp =>
    simp only [effect]
    split
    · exact .inl rfl
    · exact s.skipIf_pc _ _
  all_goals exact effect_pc rfl s

/-- Settles O22: a call pushes or halts, a return pops or halts, and `effect_stack`, `effect_sp` cover the rest. -/
theorem onlyCallAndReturnMoveTheStack : Obligations.OnlyCallAndReturnMoveTheStack := by
  intro i s t h
  obtain rfl := eq_effect_of_exec h
  cases i
  case call nnn =>
    simp only [effect]
    rcases s.callTo_cases (.call nnn) nnn.toNat with ⟨-, e⟩ | ⟨-, -, e⟩ | ⟨_, -, e⟩ <;> rw [e]
    · exact .inr ⟨rfl, rfl⟩
    · exact .inr ⟨rfl, rfl⟩
    · exact .inl rfl
  case ret =>
    simp only [effect]
    rcases s.returnFrom_cases .ret with ⟨-, e⟩ | ⟨k, _, hsp, e⟩ <;> rw [e]
    · exact ⟨rfl, .inl rfl⟩
    · exact ⟨rfl, .inr hsp.symm⟩
  all_goals exact ⟨effect_stack (by nofun) s, effect_sp (by nofun) (by nofun) s⟩

/-! ## Jumps and skips (R130, R131, R134) -/

theorem haltedFrom_haltIn (s : State) (i : Instr) (k : Cause) (a : Nat) (e : Byte) :
    HaltedFrom s (s.haltIn i k a e) k (s.pc - 2) (encode i) a e := rfl

theorem jumpsTo_of_exec {i : Instr} {a : Nat} {s : State} (h : exec i s = .next (s.jumpTo i a)) : JumpsTo i a s := by
  rcases s.jumpTo_cases i a with ⟨hin, e⟩ | ⟨hout, e⟩ <;> rw [e] at h
  · exact ⟨fun _ => h, fun hout => absurd hin hout⟩
  · exact ⟨fun hin => absurd hin hout, fun _ => ⟨_, h, haltedFrom_haltIn s i _ a 0⟩⟩

theorem skipsIf_of_exec {i : Instr} {c : Prop} {b : Bool} {s : State} (hb : b = true ↔ c)
    (h : exec i s = .next (s.skipIf i b)) : SkipsIf i c s := by
  constructor
  · intro hc
    rw [h, State.skipIf, if_neg (mt hb.1 hc)]
  · intro hc
    rw [State.skipIf, if_pos (hb.2 hc)] at h
    exact jumpsTo_of_exec h

/-- Settles O17: the whole effect is one `jumpTo`. -/
theorem jumpStaysInTheRegion : Obligations.JumpStaysInTheRegion :=
  fun _ _ => ⟨rfl, jumpsTo_of_exec rfl⟩

/-- Settles O18: the target is the sum of naturals, so nothing wraps. -/
theorem indirectJumpAddsV0 : Obligations.IndirectJumpAddsV0 :=
  fun _ _ => ⟨rfl, jumpsTo_of_exec rfl⟩

/-- Settles O24: each of the four is `skipIf` of its own comparison. -/
theorem skipsJumpOverOneInstruction : Obligations.SkipsJumpOverOneInstruction :=
  fun _ _ _ _ => ⟨⟨rfl, skipsIf_of_exec decide_eq_true_iff rfl⟩, ⟨rfl, skipsIf_of_exec decide_eq_true_iff rfl⟩,
    ⟨rfl, skipsIf_of_exec decide_eq_true_iff rfl⟩, ⟨rfl, skipsIf_of_exec decide_eq_true_iff rfl⟩⟩

/-! ## Calls and returns (R132, R133) -/

theorem exec_call_full {nnn : Addr12} {s : State} (h : s.sp.val = 16) :
    exec (.call nnn) s = .next (s.haltIn (.call nnn) .stackOverflow nnn.toNat 0) := by
  rcases s.callTo_cases (.call nnn) nnn.toNat with ⟨-, e⟩ | ⟨hlt, -, -⟩ | ⟨hlt, -, -⟩
  · exact congrArg _ e
  · omega
  · omega

theorem exec_call_outside {nnn : Addr12} {s : State} (h : s.sp.val < 16)
    (hout : ¬(s.cfg.loadAddr ≤ nnn.toNat ∧ nnn.toNat < s.cfg.memSize)) :
    exec (.call nnn) s = .next (s.outOfRange (.call nnn) nnn.toNat) := by
  rcases s.callTo_cases (.call nnn) nnn.toNat with ⟨heq, -⟩ | ⟨-, -, e⟩ | ⟨-, hin, -⟩
  · omega
  · exact congrArg _ e
  · exact absurd hin hout

theorem exec_call_push {nnn : Addr12} {s : State} (h : s.sp.val < 16)
    (hin : s.cfg.loadAddr ≤ nnn.toNat ∧ nnn.toNat < s.cfg.memSize) :
    exec (.call nnn) s = .next { s with
      stack := s.stack.set s.sp.val s.pc h
      sp := ⟨s.sp.val + 1, Nat.add_lt_add_right h 1⟩
      pc := BitVec.ofNat 16 nnn.toNat } := by
  rcases s.callTo_cases (.call nnn) nnn.toNat with ⟨heq, -⟩ | ⟨-, hout, -⟩ | ⟨_, -, e⟩
  · omega
  · exact absurd hin hout
  · exact congrArg _ e

theorem exec_ret_empty {s : State} (h : s.sp.val = 0) :
    exec .ret s = .next (s.haltIn .ret .stackUnderflow 0 0) := by
  rcases s.returnFrom_cases .ret with ⟨-, e⟩ | ⟨k, _, hk, -⟩
  · exact congrArg _ e
  · omega

theorem exec_ret_pop {s : State} {k : Nat} (hk : k < 16) (h : s.sp.val = k + 1) :
    exec .ret s = .next { s with sp := ⟨k, by omega⟩, pc := s.stack[k] } := by
  rcases s.returnFrom_cases .ret with ⟨h0, -⟩ | ⟨j, _, hj, e⟩
  · omega
  · obtain rfl : j = k := by omega
    exact congrArg _ e

/-- Settles O19: one clause for each case of the call, the full stack first. -/
theorem callPushesOrHalts : Obligations.CallPushesOrHalts := by
  intro nnn s
  refine ⟨rfl, fun hfull => ⟨_, exec_call_full hfull, rfl⟩, fun h hout => ⟨_, exec_call_outside h hout, rfl⟩,
    fun h hlow hhigh => ⟨_, exec_call_push h ⟨hlow, hhigh⟩, rfl, BitVec.ofNat_toNat .., fun k hk => ?_, rfl,
      fun _ => rfl⟩⟩
  simp only [Vector.getElem_set, eq_comm]

/-- Settles O20: the pop reads `STACK[k]` as it stands, with no check. -/
theorem returnPopsOrHalts : Obligations.ReturnPopsOrHalts :=
  fun _ => ⟨rfl, fun h => ⟨_, exec_ret_empty h, rfl⟩, fun _ hk h => ⟨_, exec_ret_pop hk h, rfl, rfl, rfl, fun _ => rfl⟩⟩

/-! ## Nested calls (R143) -/

/-- A list of calls that fits goes on running, raises `SP` by its length, leaves the entries below and puts the return
addresses on top, the first one lowest. -/
theorem callAll_pushes (cs : List (Word × Addr12)) (s : State) (hrun : s.run = .running)
    (hfit : s.sp.val + cs.length ≤ 16)
    (hin : ∀ c, c ∈ cs → s.cfg.loadAddr ≤ c.2.toNat ∧ c.2.toNat < s.cfg.memSize) :
    ∃ t, callAll cs s = some t ∧ t.run = .running ∧ t.sp.val = s.sp.val + cs.length ∧
      (∀ k (h : k < 16), k < s.sp.val → t.stack[k] = s.stack[k]) ∧
      ∀ k (h : k < cs.length), t.stack[s.sp.val + k] = cs[k].1 := by
  induction cs generalizing s with
  | nil => exact ⟨s, rfl, hrun, rfl, fun _ _ _ => rfl, fun k h => absurd h (Nat.not_lt_zero k)⟩
  | cons c cs ih =>
    obtain ⟨ra, nnn⟩ := c
    simp only [List.length_cons] at hfit
    have hlt : s.sp.val < 16 := by omega
    have hcall := exec_call_push (s := { s with pc := ra }) hlt (hin (ra, nnn) List.mem_cons_self)
    obtain ⟨t, hall, htrun, hsp, hbelow, htop⟩ := ih
      { s with stack := s.stack.set s.sp.val ra hlt, sp := ⟨s.sp.val + 1, by omega⟩, pc := BitVec.ofNat 16 nnn.toNat }
      hrun (by simp only; omega) (fun c hc => hin c (List.mem_cons_of_mem _ hc))
    refine ⟨t, ?_, htrun, ?_, fun k hk hks => ?_, fun k hk => ?_⟩
    · simp only [callAll, hcall]
      rw [if_pos hrun, hall]
    · simp only [List.length_cons, hsp]; omega
    · rw [hbelow k hk (by simp only; omega)]
      simp only [Vector.getElem_set]
      rw [if_neg (by omega)]
    · cases k with
      | zero =>
        have := hbelow s.sp.val hlt (by simp only; omega)
        simpa using this
      | succ k =>
        have := htop k (by simpa using hk)
        simp only [Nat.add_assoc, Nat.add_comm 1] at this
        simpa using this

/-- Returns pop the top entries, the highest first. -/
theorem returnAll_pops (ras : List Word) (m : Nat) (t : State) (hrun : t.run = .running) (hfit : m + ras.length ≤ 16)
    (hsp : t.sp.val = m + ras.length) (htop : ∀ k (h : k < ras.length), t.stack[m + k] = ras[k]) :
    returnAll ras.length t = some ras.reverse := by
  induction ras using List.reverseRecOn generalizing t with
  | nil => rfl
  | append_singleton ras ra ih =>
    simp only [List.length_append, List.length_singleton] at hfit hsp htop ⊢
    have hret := exec_ret_pop (s := t) (k := m + ras.length) (by omega) (by omega)
    have hra : t.stack[m + ras.length] = ra := by
      have := htop ras.length (by omega)
      simpa using this
    have hrest := ih { t with sp := ⟨m + ras.length, by omega⟩, pc := t.stack[m + ras.length] } hrun (by omega) rfl
      (fun k hk => by
        have := htop k (by omega)
        rwa [List.getElem_append_left hk] at this)
    simp only [returnAll, hret]
    rw [if_pos hrun, hrest]
    simp [hra]

/-- Settles O21: `callAll_pushes` says what stands on the stack and `returnAll_pops` takes it off again. -/
theorem callsAreReturnedInReverse : Obligations.CallsAreReturnedInReverse := by
  refine ⟨fun cs s hrun hfit hin => ?_, fun nnn s h => ⟨_, exec_call_full h, rfl, rfl, rfl, rfl⟩⟩
  obtain ⟨t, hall, htrun, hsp, -, htop⟩ := callAll_pushes cs s hrun hfit hin
  refine ⟨t, hall, hsp, ?_⟩
  have hpop := returnAll_pops (cs.map (·.1)) s.sp.val t htrun (by simpa using hfit) (by simpa using hsp)
    (fun k hk => by simpa using htop k (by simpa using hk))
  simpa using hpop

end Sys2Proof.Machine
end

section
/-! The family of 42_alu.md: results and flags. -/

namespace Sys2Proof.Machine

/-! ## Results and flags as the spec writes them (R157 to R161) -/

theorem addResult_eq (a b : Byte) : addResult a b = BitVec.ofNat 8 ((a.toNat + b.toNat) % 256) :=
  BitVec.eq_of_toNat_eq (by simp [addResult])

theorem subResult_eq (a b : Byte) : subResult a b = BitVec.ofNat 8 ((a.toNat + 256 - b.toNat) % 256) := by
  have := a.isLt
  have := b.isLt
  apply BitVec.eq_of_toNat_eq
  simp only [subResult, BitVec.toNat_ofInt, BitVec.toNat_ofNat]
  omega

theorem flagOf_decide (p : Prop) [Decidable p] : flagOf (decide p) = if p then 1 else 0 := by
  by_cases h : p <;> simp [flagOf, h]

theorem shrResult_eq (a : Byte) : shrResult a = a >>> 1 := by
  apply BitVec.eq_of_toNat_eq
  have := a.isLt
  simp only [shrResult, BitVec.toNat_ofNat, BitVec.toNat_ushiftRight, Nat.shiftRight_eq_div_pow]
  omega

theorem shlResult_eq (a : Byte) : shlResult a = a <<< 1 := by
  apply BitVec.eq_of_toNat_eq
  simp [shlResult, Nat.shiftLeft_eq]

theorem State.shiftSrc_eq (s : State) (x y : RegNo) :
    s.shiftSrc x y =
      if s.qcfg.shiftVx then s.reg x else if s.qcfg.shiftY0Vx ∧ y = 0 then s.reg x else s.reg y := by
  simp only [State.shiftSrc, Bool.and_eq_true, decide_eq_true_eq]

theorem flagOf_eq_zero_or_one (c : Bool) : flagOf c = 0 ∨ flagOf c = 1 := by
  cases c
  · exact .inl rfl
  · exact .inr rfl

/-! ## The instructions -/

/-- Settles O26: each of the five is one `setReg`, of a result computed from the old values. -/
theorem addImmediateAndLogicWriteOneRegister : Obligations.AddImmediateAndLogicWriteOneRegister :=
  fun x _ kk s => ⟨⟨rfl, addResult_eq (s.reg x) kk ▸ writesReg_of_exec_eq_setReg rfl⟩,
    ⟨rfl, writesReg_of_exec_eq_setReg rfl⟩, ⟨rfl, writesReg_of_exec_eq_setReg rfl⟩,
    ⟨rfl, writesReg_of_exec_eq_setReg rfl⟩, ⟨rfl, writesReg_of_exec_eq_setReg rfl⟩⟩

/-- An instruction whose whole effect is `setResultAndFlag` writes the result, then the flag, and nothing else. -/
theorem writesRegAndFlag_of_exec {i : Instr} {x : RegNo} {b c : Byte} {s : State}
    (h : exec i s = .next (s.setResultAndFlag x b c)) : WritesRegAndFlag i x b c s :=
  ⟨_, h, fun j => s.reg_setResultAndFlag x j b c, s.setResultAndFlag_eq x b c, fun _ => rfl⟩

/-- Settles O27: each of the three is one `setResultAndFlag` of the old values. -/
theorem addAndSubtractSetTheFlag : Obligations.AddAndSubtractSetTheFlag := by
  intro x y s
  simp only [← flagOf_decide, ← addResult_eq, ← subResult_eq]
  exact ⟨⟨rfl, writesRegAndFlag_of_exec rfl⟩, ⟨rfl, writesRegAndFlag_of_exec rfl⟩, ⟨rfl, writesRegAndFlag_of_exec rfl⟩⟩

/-- Settles O28: `v` is the value `shiftSrc` selects. -/
theorem shiftsWorkOnTheSelectedValue : Obligations.ShiftsWorkOnTheSelectedValue := by
  rintro x y s v hv
  obtain rfl : v = s.shiftSrc x y := hv.trans (s.shiftSrc_eq x y).symm
  rw [← shrResult_eq, ← shlResult_eq]
  exact ⟨⟨rfl, writesRegAndFlag_of_exec rfl⟩, ⟨rfl, writesRegAndFlag_of_exec rfl⟩⟩

/-- The drawn byte is the port's next one, else a free value (R163). -/
theorem State.drawByte_fst (s : State) : s.drawByte.1 = s.rndIn.headD (Config.freeByte s.free) := by
  unfold State.drawByte
  split <;> simp [*]

theorem State.drawByte_eq (s : State) :
    s.drawByte.2 = { s with rndIn := s.rndIn.tail, free := s.free + (1 - s.rndIn.length) } := by
  unfold State.drawByte
  split <;> simp [*]

/-- Settles O29: the draw moves on the port or the free counter only, and the register write comes after it. -/
theorem randomMasksADrawnByte : Obligations.RandomMasksADrawnByte := by
  intro x kk s
  refine ⟨rfl, fun h => ?_, fun h => ?_⟩
  · refine ⟨s.drawByte.2.setReg x (s.drawByte.1 &&& kk), by rw [exec_eq_effect, effect, if_pos h], fun j => ?_, ?_, ?_⟩
    · rw [State.reg_setReg, State.reg_drawByte, State.drawByte_fst]
    · rw [State.setReg_eq, State.drawByte_eq]
    · exact State.byteAt_congr (by simp) (by simp)
  · exact ⟨_, by rw [exec_eq_effect, effect, if_neg (by simp [h])], haltedFrom_haltIn s _ _ 0 0⟩

/-! ## Who writes `VF` (10_state.md R31) -/

/-- The draw clears `VF` and sets it on a collision. -/
theorem reg_flag_of_plotted {s t : State} {rs : List Request} (h : Plotted (s.setReg flagReg 0) t rs) :
    t.reg 15 = 0 ∨ t.reg 15 = 1 := by
  rw [h.reg_flag]
  split
  · exact .inr rfl
  · exact .inl (State.reg_setReg_self s 15 0)

theorem finishDraw_flag (i : Instr) (x0 y0 i0 n : Nat) (s : State) :
    (finishDraw i (plotRows x0 y0 i0 (List.range n) (false, s.setReg flagReg 0))).reg 15 = 0 ∨
    (finishDraw i (plotRows x0 y0 i0 (List.range n) (false, s.setReg flagReg 0))).reg 15 = 1 := by
  rcases plotRows_cases x0 y0 i0 n (s.setReg flagReg 0) with ⟨t, -, e, hp⟩ | ⟨r, q, t, -, -, e, hp⟩
  · have hflag := reg_flag_of_plotted hp
    rw [e, finishDraw]
    split
    · exact hflag
    · exact hflag
  · have hflag := reg_flag_of_plotted hp
    rw [e, finishDraw]
    exact hflag

/-- A block load that ends below `VF` leaves it. -/
theorem loadBlock_flag {x : RegNo} (hx : x ≠ 15) (i : Instr) (n a : Nat) (s : State) :
    (finishBlock i n (loadRun a (regRange 0 x) s)).reg 15 = s.reg 15 := by
  have hrun : (loadRun a (regRange 0 x) s).1.reg 15 = s.reg 15 := by
    have := x.isLt
    have : x.toNat ≠ 15 := fun h => hx (eq_ofNat_of_toNat h)
    rw [regRange_zero, loadRun_reg _ _ _ _ (by omega), if_neg]
    have : (15 : RegNo).toNat = 15 := rfl
    omega
  generalize loadRun a (regRange 0 x) s = r at hrun ⊢
  obtain ⟨t, _ | b⟩ := r
  · exact (t.reg_advanceI n 15).trans hrun
  · exact hrun

/-- Settles O30: the flag instructions end in a write of a flag, the draw clears `VF` first, and what else writes a
register writes `V[X]` or registers up to it. -/
theorem onlyFlagInstructionsWriteVF : Obligations.OnlyFlagInstructionsWriteVF := by
  intro i s t h
  obtain rfl := eq_effect_of_exec h
  cases i
  case addVxVy | subVxVy | subnVxVy | shrVxVy | shlVxVy =>
    simp only [effect, State.reg_setResultAndFlag]
    exact flagOf_eq_zero_or_one _
  case drw => exact finishDraw_flag _ _ _ _ _ s
  case ldVxMem x => exact fun hx => loadBlock_flag (fun h => hx (congrArg some h)) _ _ _ s
  case ldVxKk | addVxKk | ldVxVy | orVxVy | andVxVy | xorVxVy | ldVxDt =>
    intro hx
    exact State.reg_setReg_of_ne s _ fun h => hx (congrArg some h.symm)
  case rnd x kk =>
    intro hx
    simp only [effect]
    split
    · rw [State.reg_setReg_of_ne _ _ fun h => hx (congrArg some h.symm), State.reg_drawByte]
    · rfl
  case ldVxK x =>
    intro hx
    simp only [effect]
    split
    · rfl
    · rfl
    · exact State.reg_setReg_of_ne s _ fun h => hx (congrArg some h.symm)
  case skp | sknp =>
    intro
    refine State.reg_congr ?_ 15
    simp only [effect]
    split <;> simp
  all_goals
    intro
    exact State.reg_congr (by simp [effect]) 15

end Sys2Proof.Machine
end
section
/-! The family of 43_memory_block.md and the stores of 20_memory.md. -/

namespace Sys2Proof.Machine

/-! ## The index pointer (R180 to R182) -/

theorem toNat_lowNibble (v : Byte) : (v.extractLsb' 0 4).toNat = v.toNat % 16 := by
  simp

/-- Settles O31: the sum and the low nibble are the spec's, read as naturals. -/
theorem indexPointerWrites : Obligations.IndexPointerWrites := by
  intro nnn x s
  refine ⟨⟨rfl, _, rfl, ?_, rfl, fun _ => rfl⟩, ⟨rfl, _, rfl, BitVec.toNat_ofNat .., rfl, fun _ => rfl⟩,
    ⟨rfl, _, rfl, ?_, rfl, fun _ => rfl⟩⟩
  · exact BitVec.toNat_setWidth_of_le (by decide)
  · simp only [fontAddr, toNat_lowNibble]

/-! ## The end of a block instruction (R183, R184, R186, R188) -/

theorem finishBlock_of_all {r : State × Option Nat} (h : r.2 = none) (i : Instr) (n : Nat) :
    finishBlock i n r = r.1.advanceI n := by
  rw [← finishBlock_none i, ← h]

theorem finishBlock_of_first {r : State × Option Nat} {a : Nat} (h : r.2 = some a) (i : Instr) (n : Nat) :
    finishBlock i n r = r.1.outOfRange i a := by
  rw [← finishBlock_some i n, ← h]

@[simp] theorem finishBlock_mem (i : Instr) (n : Nat) (r : State × Option Nat) : (finishBlock i n r).mem = r.1.mem := by
  obtain ⟨t, _ | a⟩ := r
  · exact t.advanceI_mem n
  · rfl

@[simp] theorem finishBlock_cfg (i : Instr) (n : Nat) (r : State × Option Nat) : (finishBlock i n r).cfg = r.1.cfg := by
  obtain ⟨t, _ | a⟩ := r
  · exact t.advanceI_cfg n
  · rfl

@[simp] theorem finishBlock_v (i : Instr) (n : Nat) (r : State × Option Nat) : (finishBlock i n r).v = r.1.v := by
  obtain ⟨t, _ | a⟩ := r
  · exact t.advanceI_v n
  · rfl

theorem finishBlock_byteAt (i : Instr) (n : Nat) (r : State × Option Nat) (a : Nat) :
    (finishBlock i n r).byteAt a = r.1.byteAt a :=
  State.byteAt_congr (finishBlock_mem i n r) (finishBlock_cfg i n r) a

/-- With `Q_KEEP_I` no block instruction moves `I`, and a halt leaves it anyway. -/
theorem finishBlock_idx_of_keepI {r : State × Option Nat} (h : r.1.qcfg.keepI = true) (i : Instr) (n : Nat) :
    (finishBlock i n r).idx = r.1.idx := by
  obtain ⟨t, _ | a⟩ := r
  · rw [finishBlock_none, State.advanceI, if_pos h]
  · rfl

theorem storeBlock_idx_of_keepI {s : State} (h : s.qcfg.keepI = true) (i : Instr) (n a : Nat) (bs : List Byte) :
    (finishBlock i n (storeRun a bs s)).idx = s.idx := by
  rw [finishBlock_idx_of_keepI, storeRun_frame]
  rwa [storeRun_frame]

theorem loadBlock_idx_of_keepI {s : State} (h : s.qcfg.keepI = true) (i : Instr) (n a : Nat) (xs : List RegNo) :
    (finishBlock i n (loadRun a xs s)).idx = s.idx := by
  rw [finishBlock_idx_of_keepI, loadRun_frame]
  rwa [loadRun_frame]

/-- Settles O35: a block instruction moves `I` in `advanceI` only, which `Q_KEEP_I` turns off. -/
theorem onlyListedInstructionsWriteI : Obligations.OnlyListedInstructionsWriteI := by
  intro i s t h
  obtain rfl := eq_effect_of_exec h
  cases i
  case ldI | addIVx | ldFVx => trivial
  case ldBVx | ldMemVx => exact fun hk => storeBlock_idx_of_keepI hk _ _ _ _
  case ldVxMem => exact fun hk => loadBlock_idx_of_keepI hk _ _ _ _
  case rnd | skp | sknp | ldVxK => simp only [effect]; split <;> simp
  all_goals simp [effect]

/-! ## Stores (R183 to R185) -/

/-- An instruction that stores a run of bytes at `I` and ends it as its rule says, by `storeRun_byteAt` for the bytes
and by `storeRun_all`, `storeRun_first` for its end. -/
theorem storesBlock_of_exec {i : Instr} {bs : List Byte} {s : State}
    (h : exec i s = .next (finishBlock i bs.length (storeRun s.idx.toNat bs s))) : StoresBlock i bs s := by
  refine ⟨_, h, fun k hk hin => ?_, fun a ha => ?_, fun hall => ?_, fun k hk hout hin => ?_⟩
  · rw [finishBlock_byteAt, storeRun_byteAt, dif_pos ⟨by omega, by omega, hin⟩]
    simp only [Nat.add_sub_cancel_left]
  · rw [finishBlock_byteAt, storeRun_byteAt, dif_neg ha]
  · rw [finishBlock_of_all (storeRun_all hall), State.advanceI, storeRun_frame]
    split <;> rfl
  · rw [finishBlock_of_first (storeRun_first hk hout hin), storeRun_frame]
    rfl

/-- Settles O32: the three digits are one run of stores. -/
theorem bcdStoresThreeDigits : Obligations.BcdStoresThreeDigits :=
  fun _ _ => ⟨rfl, storesBlock_of_exec rfl⟩

theorem regRange_map_reg (x : RegNo) (s : State) :
    (regRange 0 x).map s.reg = (List.range (x.toNat + 1)).map fun k => s.reg (BitVec.ofNat 4 k) := by
  rw [regRange_zero, List.map_map, List.range_eq_range']
  rfl

/-- Settles O33: the registers of the block are one run of stores. -/
theorem blockStoreWritesRegisters : Obligations.BlockStoreWritesRegisters := by
  intro x s
  refine ⟨rfl, storesBlock_of_exec ?_⟩
  rw [← regRange_map_reg, List.length_map]
  rfl

/-! ## Loads (R186, R187) -/

/-- The registers `V[0]` to `V[X]` after the run of loads. -/
theorem loadRun_regRange_reg (x : RegNo) (s : State) (j : RegNo) :
    (loadRun s.idx.toNat (regRange 0 x) s).1.reg j =
      if j.toNat ≤ x.toNat ∧ s.idx.toNat + j.toNat < s.cfg.memSize then s.byteAt (s.idx.toNat + j.toNat)
      else s.reg j := by
  have := x.isLt
  rw [regRange_zero, loadRun_reg _ _ _ _ (by omega)]
  simp only [Nat.sub_zero, Nat.zero_le, true_and, Nat.zero_add, Nat.lt_succ_iff]

/-- Settles O34: `loadRun_regRange_reg` for the registers, `loadRun_all` and `loadRun_first` for the end. -/
theorem blockRecallLoadsRegisters : Obligations.BlockRecallLoadsRegisters := by
  intro x s
  have hlen : (regRange 0 x).length = x.toNat + 1 := regRange_length 0 x
  refine ⟨rfl, finishBlock (.ldVxMem x) (regRange 0 x).length (loadRun s.idx.toNat (regRange 0 x) s), rfl,
    fun a => ?_, fun j => ?_, fun hall => ?_, fun k hk hout hin => ?_⟩
  · exact State.byteAt_congr (loadBlock_mem ..) (loadBlock_cfg ..) a
  · rw [← loadRun_regRange_reg]
    exact State.reg_congr (finishBlock_v ..) j
  · rw [finishBlock_of_all (loadRun_all fun k hk => by omega), State.advanceI, loadRun_frame, hlen]
    split <;> rfl
  · rw [finishBlock_of_first (loadRun_first (by omega) hout hin), loadRun_frame]
    rfl

end Sys2Proof.Machine
end

section
/-! The family of 44_draw.md: the draw, its requests and the clear. -/

namespace Sys2Proof.Machine

/-! ## The draw (R200, R201, R203) -/

theorem exec_drw (x y : RegNo) (n : Nibble) (s : State) :
    exec (.drw x y n) s = .next (finishDraw (.drw x y n) (plotRows (s.reg x).toNat (s.reg y).toNat s.idx.toNat
      (List.range' 0 (spriteRows s.qcfg n)) (false, s.setReg flagReg 0))) := by
  rw [← List.range_eq_range']
  rfl

/-- The rows that a draw plots after clearing `VF` are the sprite's. -/
theorem drewRows_of_plotted {s t : State} {x0 y0 n : Nat}
    (h : Plotted (s.setReg flagReg 0) t ((s.setReg flagReg 0).rowsRequests x0 y0 s.idx.toNat 0 n)) :
    DrewRows s t x0 y0 n := by
  rw [State.rowsRequests_congr fun a => s.byteAt_setReg flagReg 0 a, ← State.spriteRequests_eq] at h
  refine ⟨fun j hj => ?_, ?_, h.frame, h.byteAt⟩
  · exact (h.reg_other j hj).trans (State.reg_setReg_of_ne s 0 hj)
  · rw [h.reg_flag]
    exact congrArg _ (State.reg_setReg_self s 15 0)

theorem DrewRows.pc {s t : State} {x0 y0 n : Nat} (h : DrewRows s t x0 y0 n) : t.pc = s.pc := by
  obtain ⟨-, -, hframe, -⟩ := h
  rw [hframe]; rfl

theorem DrewRows.idx {s t : State} {x0 y0 n : Nat} (h : DrewRows s t x0 y0 n) : t.idx = s.idx := by
  obtain ⟨-, -, hframe, -⟩ := h
  rw [hframe]; rfl

theorem DrewRows.cfg {s t : State} {x0 y0 n : Nat} (h : DrewRows s t x0 y0 n) : t.cfg = s.cfg := by
  obtain ⟨-, -, hframe, -⟩ := h
  rw [hframe]; rfl

theorem DrewRows.plotIn {s t : State} {x0 y0 n : Nat} (h : DrewRows s t x0 y0 n) :
    t.plotIn = s.plotIn.drop (s.spriteRequests x0 y0 n).length := by
  obtain ⟨-, -, hframe, -⟩ := h
  rw [hframe]; rfl

theorem exec_drw_of_all {x y : RegNo} {n : Nibble} {s : State}
    (h : ∀ r, r < spriteRows s.qcfg n → s.idx.toNat + r < s.cfg.memSize) :
    ∃ u, DrewRows s u (s.reg x).toNat (s.reg y).toNat (spriteRows s.qcfg n) ∧
      exec (.drw x y n) s = .next { u with
        requests := u.requests ++
          if s.spriteRequests (s.reg x).toNat (s.reg y).toNat (spriteRows s.qcfg n) = [] then [] else [.redraw] } := by
  obtain ⟨u, hrows, hp⟩ := plotRows_all (s.reg x).toNat (s.reg y).toNat s.idx.toNat (spriteRows s.qcfg n) 0 false
    (s.setReg flagReg 0) (by simpa using h)
  refine ⟨u, drewRows_of_plotted hp, ?_⟩
  rw [State.rowsRequests_congr fun a => s.byteAt_setReg flagReg 0 a, ← State.spriteRequests_eq] at hrows
  rw [exec_drw, hrows, finishDraw]
  by_cases he : s.spriteRequests (s.reg x).toNat (s.reg y).toNat (spriteRows s.qcfg n) = []
  · simp [he]
  · simp [he, State.request]

theorem exec_drw_of_first {x y : RegNo} {n : Nibble} {s : State} {r : Nat} (hr : r < spriteRows s.qcfg n)
    (hout : s.cfg.memSize ≤ s.idx.toNat + r) (hin : ∀ j, j < r → s.idx.toNat + j < s.cfg.memSize) :
    ∃ u, DrewRows s u (s.reg x).toNat (s.reg y).toNat r ∧
      exec (.drw x y n) s = .next (u.outOfRange (.drw x y n) (s.idx.toNat + r)) := by
  obtain ⟨_, u, hrows, hp⟩ := plotRows_first (s.reg x).toNat (s.reg y).toNat s.idx.toNat (spriteRows s.qcfg n) 0 r false
    (s.setReg flagReg 0) hr (by simpa using hout) (by simpa using hin)
  refine ⟨u, drewRows_of_plotted hp, ?_⟩
  rw [exec_drw, hrows, finishDraw, Nat.zero_add]

/-- Settles O39: `plotRows_all` and `plotRows_first` for any answers; `PC` is the one on entry, as no row moves it. -/
theorem drawPlotsTheSprite : Obligations.DrawPlotsTheSprite := by
  intro x y n s rows hrows
  obtain rfl : rows = spriteRows s.qcfg n := hrows
  refine ⟨rfl, exec_drw_of_all, fun r hr hout hin => ?_⟩
  obtain ⟨u, hu, hexec⟩ := exec_drw_of_first hr hout hin
  refine ⟨u, _, hu, hexec, ?_⟩
  rw [← hu.pc]
  exact haltedFrom_haltIn u _ _ _ 0

/-- Settles O42: two requests, and no other field is touched. -/
theorem clearScreenOnlyRequests : Obligations.ClearScreenOnlyRequests := by
  intro s
  refine ⟨rfl, _, rfl, ?_, fun _ => rfl⟩
  simp [State.request]

/-! ## Who issues which request (R202; 45_timer.md R220) -/

/-- The instruction `i` may issue this request in `s`, with these coordinates. -/
def IssuedBy (i : Instr) (s : State) : Request → Prop
  | .plotXor px py => (∃ x y n, i = .drw x y n) ∧ px ≤ 262 ∧ py ≤ 270
  | .clear => i = .cls
  | .redraw => i = .cls ∨ ∃ x y n, i = .drw x y n
  | .startTone d => ∃ x, i = .ldStVx x ∧ d = s.reg x
  | .stopTone => False

theorem spriteRows_le (q : QCfg) (n : Nibble) : spriteRows q n ≤ 16 := by
  have := n.isLt
  unfold spriteRows
  split
  · split <;> omega
  · omega

/-- The coordinates are a byte plus a column below 8, and a byte plus a row below 16. -/
theorem issuedBy_drw_of_mem {x y : RegNo} {n : Nibble} {s : State} {k : Nat} {r : Request}
    (hk : k ≤ spriteRows s.qcfg n)
    (h : r ∈ (s.setReg flagReg 0).rowsRequests (s.reg x).toNat (s.reg y).toNat s.idx.toNat 0 k) :
    IssuedBy (.drw x y n) s r := by
  rw [State.rowsRequests_congr fun a => s.byteAt_setReg flagReg 0 a, ← State.spriteRequests_eq] at h
  obtain ⟨c, j, hc, hj, rfl⟩ := State.mem_spriteRequests h
  have := spriteRows_le s.qcfg n
  have := (s.reg x).isLt
  have := (s.reg y).isLt
  exact ⟨⟨x, y, n, rfl⟩, by omega, by omega⟩

theorem Plotted.requests {s t : State} {rs : List Request} (h : Plotted s t rs) : t.requests = s.requests ++ rs := by
  rw [h.frame]

theorem requests_drw (x y : RegNo) (n : Nibble) (s : State) :
    ∃ rs, (effect (.drw x y n) s).requests = s.requests ++ rs ∧ ∀ r, r ∈ rs → IssuedBy (.drw x y n) s r := by
  simp only [effect, State.dataAddr_eq, Nat.add_zero]
  rcases plotRows_cases (s.reg x).toNat (s.reg y).toNat s.idx.toNat (spriteRows s.qcfg n) (s.setReg flagReg 0) with
    ⟨t, -, e, hp⟩ | ⟨k, _, t, hk, -, e, hp⟩
  · have hreq := hp.requests
    rw [e, finishDraw]
    split
    · refine ⟨_, (congrArg (· ++ [Request.redraw]) hreq).trans (List.append_assoc ..), fun r hr => ?_⟩
      rcases List.mem_append.1 hr with hr | hr
      · exact issuedBy_drw_of_mem le_rfl hr
      · rw [List.mem_singleton.1 hr]
        exact .inr ⟨x, y, n, rfl⟩
    · exact ⟨_, hreq, fun r hr => issuedBy_drw_of_mem le_rfl hr⟩
  · have hreq := hp.requests
    rw [e]
    exact ⟨_, hreq, fun r hr => issuedBy_drw_of_mem hk.le hr⟩

/-- Every instruction only adds requests, and only its own. -/
theorem effect_requests (i : Instr) (s : State) :
    ∃ rs, (effect i s).requests = s.requests ++ rs ∧ ∀ r, r ∈ rs → IssuedBy i s r := by
  have none_issued (h : (effect i s).requests = s.requests) :
      ∃ rs, (effect i s).requests = s.requests ++ rs ∧ ∀ r, r ∈ rs → IssuedBy i s r :=
    ⟨[], by rw [h, List.append_nil], nofun⟩
  cases i
  case drw x y n => exact requests_drw x y n s
  case cls => exact ⟨[.clear, .redraw], by simp [effect], by simp [IssuedBy]⟩
  case ldStVx x => exact ⟨[.startTone (s.reg x)], by simp [effect], by simp [IssuedBy]⟩
  case rnd | skp | sknp | ldVxK => refine none_issued ?_; simp only [effect]; split <;> simp
  all_goals exact none_issued (by simp [effect])

/-- Settles O40: the bounds are part of what `effect_requests` says of a plot. -/
theorem plotCoordinatesAreBounded : Obligations.PlotCoordinatesAreBounded := by
  intro i s t h
  obtain rfl := eq_effect_of_exec h
  obtain ⟨rs, hrs, hissued⟩ := effect_requests i s
  exact ⟨rs, hrs, fun px py hmem => (hissued _ hmem).2⟩

/-- Settles O47: `effect_requests`, request by request. -/
theorem requestsHaveTheirInstruction : Obligations.RequestsHaveTheirInstruction := by
  intro i s t h
  obtain rfl := eq_effect_of_exec h
  obtain ⟨rs, hrs, hissued⟩ := effect_requests i s
  refine ⟨rs, hrs, fun r hr => ?_⟩
  have hr := hissued r hr
  cases r with
  | plotXor px py => exact hr.1
  | clear => exact hr
  | redraw => exact hr
  | startTone d => exact hr
  | stopTone => exact hr

end Sys2Proof.Machine
end
section
/-! The family of 45_timer.md. -/

namespace Sys2Proof.Machine

/-! ## The tick (R215) -/

theorem stopRequests_eq (c : Byte) : stopRequests c = if c = 1 then [.stopTone] else [] := by
  have hiff : (c ≠ 0 ∧ countDown c = 0) ↔ c = 1 := by
    revert c
    decide
  simp only [stopRequests, hiff]

/-- Settles O43: the stop request goes out exactly when the counter was 1. -/
theorem tickCountsDown : Obligations.TickCountsDown := by
  intro s
  refine ⟨fun h => ⟨?_, ?_, ?_, tick_frame s, ?_⟩, tick_halted⟩
  · rw [tick_running h]; exact toNat_countDown s.dt
  · rw [tick_running h]; exact toNat_countDown s.st
  · rw [tick_running h, stopRequests_eq]
  · rw [tick_running h]; exact fun _ => rfl

/-- Settles O44, by induction on the number of ticks: the tick that takes `ST` from 1 to 0 is the `ST`-th. -/
theorem manyTicksStopAtZero : Obligations.ManyTicksStopAtZero := by
  intro n s hrun
  suffices (tick^[n] s).run = .running ∧ (tick^[n] s).dt.toNat = s.dt.toNat - n ∧
      (tick^[n] s).st.toNat = s.st.toNat - n ∧ (tick^[n] s).requests =
        s.requests ++ (if 1 ≤ s.st.toNat ∧ s.st.toNat ≤ n then [.stopTone] else []) from this.2
  induction n with
  | zero =>
    refine ⟨hrun, rfl, rfl, ?_⟩
    rw [if_neg (by omega), List.append_nil]
    rfl
  | succ n ih =>
    obtain ⟨ihrun, ihdt, ihst, ihreq⟩ := ih
    obtain ⟨hdt, hst, hreq, -, -⟩ := (tickCountsDown (tick^[n] s)).1 ihrun
    rw [Function.iterate_succ_apply']
    refine ⟨by rw [tick_running ihrun]; exact ihrun, by omega, by omega, ?_⟩
    have hone : (tick^[n] s).st = 1 ↔ s.st.toNat = n + 1 := by
      rw [← BitVec.toNat_inj, ihst]
      have : (1 : Byte).toNat = 1 := rfl
      omega
    rw [hreq, ihreq, List.append_assoc]
    congr 1
    simp only [hone]
    by_cases hle : s.st.toNat ≤ n
    · rw [if_neg (show s.st.toNat ≠ n + 1 by omega), List.append_nil]
      simp only [hle, Nat.le_succ_of_le hle]
    · by_cases heq : s.st.toNat = n + 1
      · simp [heq]
      · rw [if_neg (by omega), if_neg heq, if_neg (by omega), List.append_nil]

/-! ## The instructions (R216 to R218) -/

/-- Settles O45: one register write, and two writes of a counter. -/
theorem timerInstructions : Obligations.TimerInstructions :=
  fun _ _ => ⟨⟨rfl, writesReg_of_exec_eq_setReg rfl⟩, ⟨rfl, _, rfl, rfl, fun _ => rfl⟩,
    ⟨rfl, _, rfl, rfl, rfl, fun _ => rfl⟩⟩

theorem effect_dt {i : Instr} (hi : ∀ x, i ≠ .ldDtVx x) (s : State) : (effect i s).dt = s.dt := by
  cases i
  case ldDtVx x => exact absurd rfl (hi x)
  case rnd | skp | sknp | ldVxK => simp only [effect]; split <;> simp
  all_goals simp [effect]

theorem effect_st {i : Instr} (hi : ∀ x, i ≠ .ldStVx x) (s : State) : (effect i s).st = s.st := by
  cases i
  case ldStVx x => exact absurd rfl (hi x)
  case rnd | skp | sknp | ldVxK => simp only [effect]; split <;> simp
  all_goals simp [effect]

/-- Settles O46: the two instructions that set a counter give it `V[X]`; `effect_dt`, `effect_st` cover the rest. -/
theorem noInstructionCountsATimer : Obligations.NoInstructionCountsATimer := by
  intro i s t h
  obtain rfl := eq_effect_of_exec h
  constructor
  · by_cases hi : ∃ x, i = .ldDtVx x
    · obtain ⟨x, rfl⟩ := hi
      exact .inr ⟨x, rfl, rfl⟩
    · exact .inl (effect_dt (not_exists.1 hi) s)
  · by_cases hi : ∃ x, i = .ldStVx x
    · obtain ⟨x, rfl⟩ := hi
      exact .inr ⟨x, rfl, rfl⟩
    · exact .inl (effect_st (not_exists.1 hi) s)

end Sys2Proof.Machine
end
section
/-! The family of 46_input.md: the input gate. -/

namespace Sys2Proof.Machine

/-! ## The key skips (R231, R232) -/

theorem State.keyIs_iff (s : State) (b : Byte) : s.keyIs b = true ↔ s.key = .key b :=
  decide_eq_true_iff

theorem State.not_keyIs_iff (s : State) (b : Byte) : (!s.keyIs b) = true ↔ s.key ≠ .key b := by
  rw [Bool.not_eq_true', ← Bool.not_eq_true, s.keyIs_iff]

/-- Settles O48: the cancel key first, then `skipIf` of what the latch holds. -/
theorem keySkips : Obligations.KeySkips := by
  intro x s
  refine ⟨rfl, rfl, fun h => ?_, fun h => ?_⟩
  · exact ⟨⟨_, if_pos h, haltedFrom_haltIn s _ _ 0 0⟩, ⟨_, if_pos h, haltedFrom_haltIn s _ _ 0 0⟩⟩
  · exact ⟨skipsIf_of_exec (s.keyIs_iff _) (if_neg h), skipsIf_of_exec (s.not_keyIs_iff _) (if_neg h)⟩

/-! ## The key wait (R233) -/

theorem exec_ldVxK_none {s : State} (h : s.key = .none) (x : RegNo) :
    exec (.ldVxK x) s = .next { s with pc := s.pc - 2 } := by
  simp only [exec, execLdVxK, h]

theorem exec_ldVxK_key {s : State} {k : Byte} (h : s.key = .key k) (x : RegNo) :
    exec (.ldVxK x) s = .next (s.setReg x k) := by
  simp only [exec, execLdVxK, h]

theorem exec_ldVxK_cancel {s : State} (h : s.key = .cancel) (x : RegNo) :
    exec (.ldVxK x) s = .next (s.keyCancel (.ldVxK x)) := by
  simp only [exec, execLdVxK, h]

/-- Settles O49: one equation of `exec` for each form of the latch. -/
theorem keyWaitTakesAKey : Obligations.KeyWaitTakesAKey :=
  fun x _ => ⟨rfl, fun h => exec_ldVxK_none h x, fun _ h => writesReg_of_exec_eq_setReg (exec_ldVxK_key h x),
    fun h => ⟨_, exec_ldVxK_cancel h x, rfl⟩⟩

end Sys2Proof.Machine
end

section
/-! The family of 44_draw.md on the reference surface (R205): a sprite drawn twice. -/

namespace Sys2Proof.Machine

/-! ## Answers of the reference surface -/

/-- The plot requests for some coordinates. -/
def plotRequests (ps : List (Nat × Nat)) : List Request := ps.map fun p => .plotXor p.1 p.2

/-- The pixel of the reference surface at reduced coordinates. -/
def referencePixel (p : Nat × Nat) : Nat × Nat := (p.1 % 64, p.2 % 32)

theorem Surface.replay_append {σ : Type} (p : Surface σ) (g : σ) (rs rs' : List Request) :
    (p.replay g (rs ++ rs')).2 = (p.replay g rs).2 ++ (p.replay (p.replay g rs).1 rs').2 := by
  induction rs generalizing g with
  | nil => rfl
  | cons r rs ih =>
    cases r with
    | plotXor x y => exact congrArg (_ :: ·) (ih _)
    | clear => exact ih _
    | redraw => exact ih g
    | startTone d => exact ih g
    | stopTone => exact ih g

/-- Different pixels that are all off are answered "not set", and are on afterwards. -/
theorem replay_reference_of_off (ps : List (Nat × Nat)) (g : List (Nat × Nat)) (hps : (ps.map referencePixel).Nodup)
    (hoff : ∀ p, p ∈ ps → referencePixel p ∉ g) :
    (Surface.reference.replay g (plotRequests ps)).2 = List.replicate ps.length false ∧
    ∀ q, q ∈ g ∨ q ∈ ps.map referencePixel → q ∈ (Surface.reference.replay g (plotRequests ps)).1 := by
  induction ps generalizing g with
  | nil => exact ⟨rfl, fun q hq => hq.resolve_right List.not_mem_nil⟩
  | cons p ps ih =>
    obtain ⟨hp, hps⟩ := List.nodup_cons.1 hps
    have hplot : Surface.reference.plotXor g p.1 p.2 = (referencePixel p :: g, false) :=
      if_neg (hoff p List.mem_cons_self)
    obtain ⟨hans, hon⟩ := ih (referencePixel p :: g) hps fun q hq hmem => by
      rcases List.mem_cons.1 hmem with heq | hmem
      · exact hp (heq ▸ List.mem_map_of_mem hq)
      · exact hoff q (List.mem_cons_of_mem p hq) hmem
    simp only [plotRequests, List.map_cons, Surface.replay, hplot] at hans hon ⊢
    refine ⟨by rw [hans]; rfl, fun q hq => hon q ?_⟩
    simp only [List.mem_cons] at hq ⊢
    tauto

/-- Different pixels that are all on are answered "already set". -/
theorem replay_reference_of_on (ps : List (Nat × Nat)) (g : List (Nat × Nat)) (hps : (ps.map referencePixel).Nodup)
    (hon : ∀ p, p ∈ ps → referencePixel p ∈ g) :
    (Surface.reference.replay g (plotRequests ps)).2 = List.replicate ps.length true := by
  induction ps generalizing g with
  | nil => rfl
  | cons p ps ih =>
    obtain ⟨hp, hps⟩ := List.nodup_cons.1 hps
    have hplot : Surface.reference.plotXor g p.1 p.2 = (g.filter (fun q => q ≠ referencePixel p), true) :=
      if_pos (hon p List.mem_cons_self)
    have hans := ih (g.filter (fun q => q ≠ referencePixel p)) hps fun q hq => by
      refine List.mem_filter.2 ⟨hon q (List.mem_cons_of_mem p hq), decide_eq_true fun heq => hp ?_⟩
      exact heq ▸ List.mem_map_of_mem hq
    simp only [plotRequests, List.map_cons, Surface.replay, hplot] at hans ⊢
    rw [hans]
    rfl

/-- The same requests twice on the clear surface: every pixel is off the first time and on the second. -/
theorem replay_reference_twice {ps : List (Nat × Nat)} (hps : (ps.map referencePixel).Nodup) :
    (Surface.reference.replay [] (plotRequests ps ++ plotRequests ps)).2 =
      List.replicate ps.length false ++ List.replicate ps.length true := by
  obtain ⟨hans, hon⟩ := replay_reference_of_off ps [] hps (by simp)
  rw [Surface.replay_append, hans,
    replay_reference_of_on ps _ hps fun p hp => hon _ (.inr (List.mem_map_of_mem hp))]

/-! ## One sprite row -/

/-- The coordinates of the set bits of a row, leftmost first. -/
def rowPixels (x0 y : Nat) (b : Byte) : List (Nat × Nat) :=
  ((List.range 8).filter fun c => b.getLsbD (7 - c)).map fun c => (x0 + c, y)

theorem rowRequests_eq (x0 y : Nat) (b : Byte) : rowRequests x0 y b = plotRequests (rowPixels x0 y b) := by
  simp only [rowRequests, plotRequests, rowPixels, List.map_map]
  induction List.range 8 with
  | nil => rfl
  | cons c cs ih => cases h : b.getLsbD (7 - c) <;> simp [h, ih]

/-- Eight columns are different modulo 64. -/
theorem rowPixels_nodup (x0 y : Nat) (b : Byte) : ((rowPixels x0 y b).map referencePixel).Nodup := by
  rw [rowPixels, List.map_map]
  refine List.Nodup.map_on (fun c hc d hd h => ?_) (List.nodup_range.filter _)
  have hc : c < 8 := List.mem_range.1 (List.mem_of_mem_filter hc)
  have hd : d < 8 := List.mem_range.1 (List.mem_of_mem_filter hd)
  have : (x0 + c) % 64 = (x0 + d) % 64 := congrArg Prod.fst h
  omega

theorem rowPixels_ne_nil {b : Byte} (h : b ≠ 0) (x0 y : Nat) : rowPixels x0 y b ≠ [] := by
  intro hnil
  apply h
  rw [rowPixels, List.map_eq_nil_iff, List.filter_eq_nil_iff] at hnil
  refine BitVec.eq_of_getLsbD_eq fun k hk => ?_
  have := hnil (7 - k) (List.mem_range.2 (by omega))
  rw [show 7 - (7 - k) = k by omega] at this
  simpa using this

theorem State.spriteRequests_one (s : State) (x0 y0 : Nat) :
    s.spriteRequests x0 y0 1 = plotRequests (rowPixels x0 y0 (s.byteAt s.idx.toNat)) := by
  rw [← rowRequests_eq]
  simp [State.spriteRequests]

/-! ## Drawing it -/

theorem State.answer_of_plotIn {s : State} {bs rest : List Bool} (h : s.plotIn = bs ++ rest) {k : Nat}
    (hk : k < bs.length) : s.answer k = bs[k] := by
  have hlen : k < s.plotIn.length := by rw [h, List.length_append]; omega
  rw [State.answer, dif_pos hlen]
  simp only [h, List.getElem_append_left hk]

/-- A one-row draw whose requests are all answered alike reports that answer in `VF` and uses the answers up. -/
theorem exec_drw_one {x y : RegNo} {s : State} {v : Bool} {rest : List Bool} (hidx : s.idx.toNat < s.cfg.memSize)
    (hne : s.spriteRequests (s.reg x).toNat (s.reg y).toNat 1 ≠ [])
    (hans : s.plotIn = List.replicate (s.spriteRequests (s.reg x).toNat (s.reg y).toNat 1).length v ++ rest) :
    ∃ t, exec (.drw x y 1) s = .next t ∧ t.reg 15 = flagOf v ∧ t.plotIn = rest ∧
      (∀ j, j ≠ 15 → t.reg j = s.reg j) ∧ t.idx = s.idx ∧ t.cfg = s.cfg ∧ SameBytes s t := by
  have hrows : spriteRows s.qcfg 1 = 1 := rfl
  obtain ⟨u, hdrew, hexec⟩ := exec_drw_of_all (x := x) (y := y) (n := 1) (s := s)
    (by rw [hrows]; intro r hr; omega)
  rw [hrows] at hdrew hexec
  have ⟨hreg, hflag, _, hbytes⟩ := hdrew
  refine ⟨_, hexec, ?_, ?_, hreg, hdrew.idx, hdrew.cfg, hbytes⟩
  · refine hflag.trans ?_
    have hall : ∀ k, k < (s.spriteRequests (s.reg x).toNat (s.reg y).toNat 1).length → s.answer k = v := fun k hk => by
      rw [State.answer_of_plotIn hans (by simpa using hk), List.getElem_replicate]
    cases v with
    | true => exact if_pos ⟨0, List.length_pos_iff.2 hne, hall 0 (List.length_pos_iff.2 hne)⟩
    | false =>
      refine if_neg ?_
      rintro ⟨k, hk, htrue⟩
      rw [hall k hk] at htrue
      cases htrue
  · exact (hdrew.plotIn.trans (congrArg _ hans)).trans (List.drop_left' List.length_replicate)

/-- Settles O41: the surface answers "not set" to every request of the first draw and "already set" to every one of the
second, which plots the same pixels, as neither `I` nor `V[X]`, `V[Y]` have changed. -/
theorem drawingTwiceCollides : Obligations.DrawingTwiceCollides := by
  intro x y s rest hx hy hidx hbyte hplot
  have hne : s.spriteRequests (s.reg x).toNat (s.reg y).toNat 1 ≠ [] := by
    rw [State.spriteRequests_one, plotRequests, Ne, List.map_eq_nil_iff]
    exact rowPixels_ne_nil hbyte _ _
  rw [State.spriteRequests_one, replay_reference_twice (rowPixels_nodup _ _ _),
    ← List.length_map (f := fun p => Request.plotXor p.1 p.2), ← plotRequests, ← State.spriteRequests_one,
    List.append_assoc] at hplot
  obtain ⟨t, hexec, hflag, hin, hreg, hti, htc, hbytes⟩ := exec_drw_one hidx hne hplot
  have hsame : t.spriteRequests (t.reg x).toNat (t.reg y).toNat 1 =
      s.spriteRequests (s.reg x).toNat (s.reg y).toNat 1 := by
    rw [State.spriteRequests_one, State.spriteRequests_one, hreg x hx, hreg y hy, hti, hbytes]
  obtain ⟨u, hexec', hflag', hin', -⟩ := exec_drw_one (x := x) (y := y) (s := t) (v := true) (rest := rest)
    (by rw [hti, htc]; exact hidx) (by rw [hsame]; exact hne) (by rw [hsame]; exact hin)
  exact ⟨t, u, hexec, hexec', hflag, hflag', hin'⟩

end Sys2Proof.Machine
end

section
/-! The family of 47_execution_engine.md: the step of a running machine, its halts and its schedule. -/

namespace Sys2Proof.Machine

/-! ## The step that is due (R246, R247, R253) -/

theorem engineStep_of_end {s : State} (hrun : s.run = .running) (h : s.progEnd.toNat ≤ s.pc.toNat) :
    engineStep s = .next (s.haltAt .endOfProgram s.pc 0 0 0) := by
  rcases engineStep_cases hrun with ⟨-, e⟩ | ⟨hlt, -, -⟩ | ⟨hlt, -, -⟩
  · exact e
  · omega
  · omega

theorem engineStep_of_bound {s : State} (hrun : s.run = .running) (hend : s.pc.toNat < s.progEnd.toNat)
    (h : s.cfg.memSize ≤ s.pc.toNat + 1) :
    engineStep s = .next (s.haltAt .outOfRange s.pc 0 (s.pc.toNat + 1) 0) := by
  rcases engineStep_cases hrun with ⟨hle, -⟩ | ⟨-, -, e⟩ | ⟨-, hlt, -⟩
  · omega
  · exact e
  · omega

theorem engineStep_of_word {s : State} (hrun : s.run = .running) (hend : s.pc.toNat < s.progEnd.toNat)
    (h : s.pc.toNat + 1 < s.cfg.memSize) :
    engineStep s = execWord (s.byteAt s.pc.toNat ++ s.byteAt (s.pc.toNat + 1)) { s with pc := s.pc + 2 } := by
  rcases engineStep_cases hrun with ⟨hle, -⟩ | ⟨-, hge, -⟩ | ⟨-, -, e⟩
  · omega
  · omega
  · exact e

/-- Settles O9: moving the schedule on changes nothing the fetch reads, so the three cases are those of `engineStep`. -/
theorem fetchHaltsOrReadsTheWord : Obligations.FetchHaltsOrReadsTheWord := by
  intro s hrun hdue
  rw [step_of_step hdue]
  exact ⟨fun h => ⟨_, engineStep_of_end (s := s.popDue) hrun h, rfl⟩,
    fun hend h => ⟨_, engineStep_of_bound (s := s.popDue) hrun hend h, rfl⟩,
    fun hend h => engineStep_of_word (s := s.popDue) hrun hend h⟩

theorem readWord_eq_some {s : State} {a : Nat} {w : Word} :
    s.readWord a = some w ↔ a + 1 < s.cfg.memSize ∧ s.byteAt a ++ s.byteAt (a + 1) = w := by
  simp [State.readWord, wordOfBytes]

/-- A running step, due, executes the word in memory at `PC`. -/
theorem step_of_readWord {s : State} {w : Word} (hrun : s.run = .running) (hdue : s.due = .step)
    (hend : s.pc.toNat < s.progEnd.toNat) (hw : s.readWord s.pc.toNat = some w) :
    step s = execWord w { s.popDue with pc := s.pc + 2 } := by
  obtain ⟨hin, hword⟩ := readWord_eq_some.1 hw
  rw [((fetchHaltsOrReadsTheWord s hrun hdue).2).2 hend hin, hword]

/-- Settles O7: two bytes that decode are a word that decodes. -/
theorem stepRunsTheDecodedInstruction : Obligations.StepRunsTheDecodedInstruction := by
  intro s i hdue hrun hend hin hdec
  rw [step_of_readWord hrun hdue hend (readWord_eq_some.2 ⟨hin, rfl⟩)]
  refine execWord_ok ?_ _
  simp only [decodeBytes, wordOfBytes] at hdec
  cases h : decode (s.byteAt s.pc.toNat ++ s.byteAt (s.pc.toNat + 1)) <;> rw [h] at hdec <;> cases hdec
  rfl

/-- Settles O8: neither a tick nor a reset reads the schedule. -/
theorem eachAgentTakesItsOwnStep : Obligations.EachAgentTakesItsOwnStep := by
  intro s rest
  refine ⟨rfl, ?_, fun _ => rfl, fun q prog => ?_⟩
  · exact congrArg Host.Outcome.next (tick_events s rest)
  · exact congrArg Host.Outcome.next (s.resetWith_events q prog rest)

theorem execWord_answers (w : Word) (s : State) : ∃ t, execWord w s = .next t := by
  cases h : decode w with
  | ok i => exact ⟨_, (execWord_ok h s).trans (exec_eq_effect i s)⟩
  | error r => exact ⟨_, execWord_error h s⟩

theorem engineStep_answers (s : State) : ∃ t, engineStep s = .next t := by
  rcases s.run_cases with hrun | hrun
  · rcases engineStep_cases hrun with ⟨-, e⟩ | ⟨-, -, e⟩ | ⟨-, -, e⟩
    · exact ⟨_, e⟩
    · exact ⟨_, e⟩
    · exact e ▸ execWord_answers _ _
  · exact ⟨s, engineStep_halted hrun⟩

/-- Settles O13: one case for each transition; a `Step()` by `engineStep_answers`. -/
theorem everyStepAnswersANextState : Obligations.EveryStepAnswersANextState := by
  intro s
  rcases step_cases s with ⟨-, e⟩ | ⟨-, e⟩ | ⟨k, -, e⟩ | ⟨q, prog, -, e⟩
  · exact e ▸ engineStep_answers s.popDue
  · exact ⟨_, e⟩
  · exact ⟨_, e⟩
  · exact ⟨_, e⟩

/-! ## Undefined words (R250, R271) -/

/-- An instruction the machine does not have is a draw of a random byte where that is not in the configuration. -/
theorem eq_rnd_of_not_wellFormed {q : QCfg} {i : Instr} (h : i.wellFormed q ≠ true) :
    q.admitRnd = false ∧ ∃ x kk, i = .rnd x kk := by
  cases i
  case rnd x kk => exact ⟨Bool.eq_false_iff.2 h, x, kk, rfl⟩
  all_goals exact absurd rfl h

/-- Settles O10: the word does not decode, or it is the one instruction that depends on the configuration, whose halt
records the same. -/
theorem undefinedWordHaltsTheStep : Obligations.UndefinedWordHaltsTheStep := by
  intro s w hrun hdue hend hw hundef
  refine ⟨({ s.popDue with pc := s.pc + 2 } : State).haltAt .undefinedOpcode s.pc w 0 0, ?_, rfl⟩
  rw [step_of_readWord hrun hdue hend hw]
  cases hdec : decode w with
  | error r => rw [execWord_error hdec, pc_add_two_sub_two]
  | ok i =>
    obtain ⟨hq, x, kk, rfl⟩ := eq_rnd_of_not_wellFormed fun hwf => hundef ⟨i, hdec, hwf⟩
    rw [execWord_ok hdec, exec_eq_effect, effect, if_neg (by simp [hq])]
    simp only [State.haltIn, pc_add_two_sub_two, encode_of_decode hdec]

/-- Settles O12: `step_of_halted` says what such a step is. -/
theorem haltedStateIsFrozen : Obligations.HaltedStateIsFrozen := by
  intro s h hreset
  obtain ⟨k, hstep⟩ := step_of_halted h hreset
  exact ⟨_, hstep, rfl⟩

/-! ## The halt record (R282; 60_exceptions.md R270) -/

/-- Settles O15: different causes have different numbers, pair by pair. -/
theorem causeCodes : Obligations.CauseCodes := by
  refine ⟨rfl, rfl, rfl, rfl, rfl, rfl, rfl, rfl, rfl, fun a b h => ?_⟩
  cases a <;> cases b <;> simp [Cause.code] at h ⊢

/-- Settles O14: the two halts of the fetch, the undefined word, and the halt out of an instruction, whose record holds
its encoding, that is the fetched word. -/
theorem haltRecordNamesTheInstruction : Obligations.HaltRecordNamesTheInstruction := by
  intro s t hdue hrun hstep hhalt
  have hpop : s.popDue.run = .running := hrun
  rw [step_of_step hdue] at hstep
  rcases engineStep_cases hpop with ⟨-, e⟩ | ⟨-, -, e⟩ | ⟨hend, hin, e⟩ <;> rw [e] at hstep
  · cases hstep
    exact ⟨rfl, nofun, nofun, fun _ _ => rfl, fun _ => rfl, .inl ⟨rfl, rfl, .inl rfl⟩⟩
  · cases hstep
    exact ⟨rfl, nofun, nofun, fun h => absurd rfl h, fun _ => rfl, .inl ⟨rfl, rfl, .inr rfl⟩⟩
  · have hw : s.readWord s.pc.toNat = some _ := readWord_eq_some.2 ⟨hin, rfl⟩
    cases hdec : decode (wordOfBytes (s.popDue.byteAt s.popDue.pc.toNat) (s.popDue.byteAt (s.popDue.pc.toNat + 1))) with
    | error r =>
      rw [execWord_error hdec] at hstep
      cases hstep
      exact ⟨pc_add_two_sub_two s.pc, nofun, nofun, fun _ _ => rfl, fun _ => rfl, .inr ⟨rfl, hw, nofun⟩⟩
    | ok i =>
      rw [execWord_ok hdec] at hstep
      rcases exec_goesOnOrHalts hstep with ⟨hgo, -⟩ | ⟨-, hpc, hrpc, hword, hnone, hend, hload, haddr, hexit⟩
      · rw [hhalt, hpop] at hgo
        cases hgo
      · rw [encode_of_decode hdec] at hword
        refine ⟨hrpc.trans (pc_add_two_sub_two s.pc), hnone, hload, haddr, hexit, .inr ⟨hpc, ?_, hend⟩⟩
        rw [hword]
        exact hw

/-! ## A word stored, and a step that waits (20_memory.md R84; 46_input.md R233) -/

theorem writeByte_eq_some {s t : State} {a : Nat} {b : Byte} :
    s.writeByte a b = some t ↔ a < s.cfg.memSize ∧ s.setByte a b = t := by
  simp [State.writeByte]

/-- The two bytes of a word written at `a` are read as the word. -/
theorem readWord_of_stored {s : State} {a : Nat} (w : Word) (h : a + 1 < s.cfg.memSize) :
    ((s.setByte a (fieldHI w)).setByte (a + 1) (fieldKK w)).readWord a = some w := by
  refine readWord_eq_some.2 ⟨h, ?_⟩
  simp [State.byteAt_setByte, fieldHI_append_fieldKK]

theorem State.due_congr {s t : State} (he : t.events = s.events) (hl : t.later = s.later) : t.due = s.due := by
  simp only [State.due, he, hl]

/-- Settles O38: a store leaves all that decides whether and where the next step fetches. -/
theorem fetchSeesStoredBytes : Obligations.FetchSeesStoredBytes := by
  intro s t u i hrun hdue hend ht hu
  obtain ⟨-, ht⟩ := writeByte_eq_some.1 ht
  obtain ⟨hin, hu⟩ := writeByte_eq_some.1 hu
  have hpc : u.pc = s.pc := by simp [← hu, ← ht]
  have hword : u.readWord s.pc.toNat = some (encode i) := by
    rw [← hu, ← ht]
    exact readWord_of_stored (encode i) (by simpa [← ht] using hin)
  have hudue : u.due = s.due := State.due_congr (by simp [← hu, ← ht]) (by simp [← hu, ← ht])
  rw [step_of_readWord (w := encode i) (by simpa [← hu, ← ht] using hrun) (hudue.trans hdue)
    (by simpa [← hu, ← ht] using hend) (by rw [hpc, hword]), execWord_ok (decode_encode i), hpc]

/-- Settles O50: `PC` moves past the word and back again. -/
theorem waitingStepChangesNothing : Obligations.WaitingStepChangesNothing := by
  intro s x hdue hrun hkey hend hw
  rw [step_of_readWord hrun hdue hend hw, execWord_ok (decode_encode _)]
  refine (exec_ldVxK_none (s := { s.popDue with pc := s.pc + 2 }) hkey x).trans ?_
  exact congrArg (fun pc => Host.Outcome.next { s.popDue with pc := pc }) (pc_add_two_sub_two s.pc)

/-! ## The schedule (R253) -/

/-- Settles O57: moving a schedule on is by definition the listed transition first; in a session the free one stands,
or a `Step()` for a reset. -/
theorem eventsMayComeForEver : Obligations.EventsMayComeForEver := by
  intro s
  refine ⟨fun _ => rfl, fun _ _ _ => rfl, fun _ => rfl, fun n => ⟨(Config.freeEvent n).inSession, ?_, rfl⟩⟩
  cases h : Config.freeEvent n with
  | reset q prog => exact .inr ⟨rfl, q, prog, rfl⟩
  | step => exact .inl ⟨rfl, nofun⟩
  | tick => exact .inl ⟨rfl, nofun⟩
  | key k => exact .inl ⟨rfl, nofun⟩

end Sys2Proof.Machine
end
section
/-! The family of 70_reset_and_hazards.md: the reset, and the invariant of a session. -/

namespace Sys2Proof.Machine

/-! ## Reset (R300 to R302) -/

theorem wf_iff (c : Config) :
    c.wf = true ↔ 2 ≤ c.memSize ∧ c.memSize ≤ 65535 ∧ c.loadAddr < c.memSize ∧ c.fontBase + 80 ≤ c.loadAddr := by
  simp [Config.wf, and_assoc]

theorem initByte_font {c : Config} {k : Nat} (h : k < 80) : initByte c (c.fontBase + k) = c.fontData[k] := by
  rw [initByte, dif_pos ⟨by omega, by omega⟩]
  simp

theorem initByte_of_not_font {c : Config} {a : Nat} (h : ¬(c.fontBase ≤ a ∧ a < c.fontBase + 80)) :
    initByte c a = (Memory.find c.memInit a).getD 0 := by
  rw [initByte, dif_neg h]

theorem resetWith_of_fits {s : State} {prog : List Byte} (h : prog.length ≤ s.cfg.memSize - s.cfg.loadAddr) (q : QCfg) :
    s.resetWith q prog = { s.clearCore q with
      mem := Memory.load s.cfg s.cfg.loadAddr prog []
      progEnd := BitVec.ofNat 17 (s.cfg.loadAddr + prog.length) } :=
  if_pos h

theorem resetWith_of_too_large {s : State} {prog : List Byte} (h : s.cfg.memSize - s.cfg.loadAddr < prog.length)
    (q : QCfg) :
    s.resetWith q prog = { s.clearCore q with
      run := .halted
      halt := { HaltRecord.zero with cause := .programTooLarge } } :=
  if_neg (Nat.not_le.2 h)

/-- Whatever the program, its load decides no more than memory, the run state and the end of the program. -/
theorem resetWith_frame (s : State) (q : QCfg) (prog : List Byte) :
    s.resetWith q prog = { s.clearCore q with
      mem := (s.resetWith q prog).mem
      run := (s.resetWith q prog).run
      halt := (s.resetWith q prog).halt
      progEnd := (s.resetWith q prog).progEnd } := by
  rcases Nat.lt_or_ge (s.cfg.memSize - s.cfg.loadAddr) prog.length with h | h
  · rw [resetWith_of_too_large h]
  · rw [resetWith_of_fits h]

theorem resetWith_stack (s : State) (q : QCfg) (prog : List Byte) :
    (s.resetWith q prog).stack = Vector.replicate 16 0 := by
  rw [resetWith_frame]; rfl

/-- A program that fits stands at `LOAD_ADDR`; every other byte is its initial one. -/
theorem byteAt_resetWith_of_fits {s : State} {prog : List Byte}
    (h : prog.length ≤ s.cfg.memSize - s.cfg.loadAddr) (q : QCfg) (a : Nat) :
    (s.resetWith q prog).byteAt a =
      if h : s.cfg.loadAddr ≤ a ∧ a < s.cfg.loadAddr + prog.length then prog[a - s.cfg.loadAddr]'(by omega)
      else initByte s.cfg a := by
  rw [resetWith_of_fits h]
  exact Memory.find_load s.cfg prog s.cfg.loadAddr a []

theorem byteAt_resetWith_of_too_large {s : State} {prog : List Byte}
    (h : s.cfg.memSize - s.cfg.loadAddr < prog.length) (q : QCfg) (a : Nat) :
    (s.resetWith q prog).byteAt a = initByte s.cfg a := by
  rw [resetWith_of_too_large h]
  rfl

/-- Below `LOAD_ADDR` memory is the initial one either way. -/
theorem byteAt_resetWith_of_lt {s : State} {a : Nat} (ha : a < s.cfg.loadAddr) (q : QCfg) (prog : List Byte) :
    (s.resetWith q prog).byteAt a = initByte s.cfg a := by
  rcases Nat.lt_or_ge (s.cfg.memSize - s.cfg.loadAddr) prog.length with h | h
  · exact byteAt_resetWith_of_too_large h q a
  · rw [byteAt_resetWith_of_fits h, dif_neg (by omega)]

theorem toNat_ofNat_of_le {c : Config} {a : Nat} (hwf : c.wf = true) (ha : a ≤ c.memSize) :
    (BitVec.ofNat 16 a).toNat = a ∧ (BitVec.ofNat 17 a).toNat = a := by
  obtain ⟨-, hmax, -⟩ := (wf_iff c).1 hwf
  rw [BitVec.toNat_ofNat, BitVec.toNat_ofNat]
  exact ⟨Nat.mod_eq_of_lt (by omega), Nat.mod_eq_of_lt (by omega)⟩

/-- Settles O52: `resetWith_frame` for the fields, `byteAt_resetWith_of_lt` below the program, and a case of the load
for what stands from `LOAD_ADDR` on. -/
theorem resetLoadsTheProgram : Obligations.ResetLoadsTheProgram := by
  rintro s t q prog hwf rfl
  obtain ⟨-, -, hload, hfont⟩ := (wf_iff s.cfg).1 hwf
  have habove : ∀ a, s.cfg.loadAddr ≤ a → initByte s.cfg a = (Memory.find s.cfg.memInit a).getD 0 :=
    fun a ha => initByte_of_not_font (by omega)
  refine ⟨fun j => ?_, ?_, ?_, fun k hk => ?_, ?_, ?_, ?_, ?_, ?_, ?_, fun k hk => ?_, fun a ha hout => ?_,
    fun hfits => ⟨?_, ?_, ?_, fun k hk => ?_, fun a ha => ?_⟩, fun hlarge => ⟨?_, ?_, ?_, fun a ha => ?_⟩⟩
  · rw [resetWith_frame]; simp [State.reg]
  · rw [resetWith_frame]; rfl
  · rw [resetWith_frame]; rfl
  · simp only [resetWith_stack, Vector.getElem_replicate]
  · rw [resetWith_frame]; rfl
  · rw [resetWith_frame]; rfl
  · rw [resetWith_frame]; exact (toNat_ofNat_of_le hwf hload.le).1
  · rw [resetWith_frame]; rfl
  · rw [resetWith_frame]; rfl
  · rw [resetWith_frame]; rfl
  · rw [byteAt_resetWith_of_lt (by omega), initByte_font hk]
  · rw [byteAt_resetWith_of_lt ha, initByte_of_not_font hout]
  · rw [resetWith_of_fits hfits]; rfl
  · rw [resetWith_of_fits hfits]; rfl
  · rw [resetWith_of_fits hfits]; exact (toNat_ofNat_of_le hwf (by omega)).2
  · rw [byteAt_resetWith_of_fits hfits, dif_pos ⟨by omega, by omega⟩]
    simp only [Nat.add_sub_cancel_left]
  · rw [byteAt_resetWith_of_fits hfits, dif_neg (by omega), habove a (by omega)]
  · rw [resetWith_of_too_large hlarge]
  · rw [resetWith_of_too_large hlarge]
  · rw [resetWith_of_too_large hlarge]; exact (toNat_ofNat_of_le hwf hload.le).2
  · rw [byteAt_resetWith_of_too_large hlarge, habove a ha]

/-- Settles O53: every field of `State.reset` is a literal. -/
theorem resetStateValues : Obligations.ResetStateValues := by
  unfold Obligations.ResetStateValues
  decide

/-! ## The invariant (10_state.md R36, R37, R39, R44) -/

/-- Settles O56: the parameters are numbers, the memory list and the stack are empty. -/
theorem resetMeetsTheInvariant : Obligations.ResetMeetsTheInvariant where
  cfg_wf := by decide
  mem_wf := by decide
  pc_low := by decide
  pc_high := by decide
  end_low := by decide
  end_high := by decide
  stack_live := fun k _ hk => absurd hk (Nat.not_lt_zero k)
  record_running := fun _ => rfl
  record_halted := nofun

end Sys2Proof.Machine
end

section
/-! The invariant of 10_state.md R36, R37, R39, R44 along every transition. -/

namespace Sys2Proof.Machine

/-! ## Transitions that leave the core alone, and halts -/

/-- The invariant speaks of these fields only. -/
theorem Inv.congr {s t : State} (h : Inv s) (hcfg : t.cfg = s.cfg) (hmem : t.mem = s.mem) (hpc : t.pc = s.pc)
    (hend : t.progEnd = s.progEnd) (hstack : t.stack = s.stack) (hsp : t.sp = s.sp) (hrun : t.run = s.run)
    (hhalt : t.halt = s.halt) : Inv t := by
  cases s
  cases t
  cases hcfg; cases hmem; cases hpc; cases hend; cases hstack; cases hsp; cases hrun; cases hhalt
  exact ⟨h.cfg_wf, h.mem_wf, h.pc_low, h.pc_high, h.end_low, h.end_high, h.stack_live, h.record_running,
    h.record_halted⟩

theorem Inv.popDue {s : State} (h : Inv s) : Inv s.popDue :=
  h.congr rfl rfl rfl rfl rfl rfl rfl rfl

theorem Inv.setKey {s : State} (h : Inv s) (k : KeyLatch) : Inv (s.setKey k) :=
  h.congr rfl rfl rfl rfl rfl rfl rfl rfl

theorem Inv.tick {s : State} (h : Inv s) : Inv (tick s) := by
  rw [tick_frame]
  exact h.congr rfl rfl rfl rfl rfl rfl rfl rfl

theorem Inv.haltAt {s : State} (h : Inv s) {k : Cause} (hk : k ≠ .none) (pc0 w : Word) (a : Nat) (e : Byte) :
    Inv (s.haltAt k pc0 w a e) where
  cfg_wf := h.cfg_wf
  mem_wf := h.mem_wf
  pc_low := h.pc_low
  pc_high := h.pc_high
  end_low := h.end_low
  end_high := h.end_high
  stack_live := h.stack_live
  record_running := nofun
  record_halted := fun _ => hk

/-! ## An instruction, field by field -/

theorem effect_mem_wf {s : State} (h : Memory.wf s.cfg s.mem = true) (i : Instr) :
    Memory.wf s.cfg (effect i s).mem = true := by
  cases i
  case ldBVx | ldMemVx =>
    rw [effect, finishBlock_mem]
    exact storeRun_wf h
  all_goals
    rw [effect_mem (by nofun) (by nofun)]
    exact h

/-- R36: `PROG_START <= PC <= MEM_SIZE`. -/
def PCInRange (c : Config) (pc : Word) : Prop := c.loadAddr ≤ pc.toNat ∧ pc.toNat ≤ c.memSize

theorem pcInRange_of_region {c : Config} {a : Nat} (hwf : c.wf = true) (h : c.loadAddr ≤ a ∧ a < c.memSize) :
    PCInRange c (BitVec.ofNat 16 a) := by
  rw [PCInRange, (toNat_ofNat_of_le hwf h.2.le).1]
  exact ⟨h.1, h.2.le⟩

section
variable {s : State} (hwf : s.cfg.wf = true) (hpc : PCInRange s.cfg s.pc)
include hwf hpc

theorem jumpTo_pcInRange (i : Instr) (a : Nat) : PCInRange s.cfg (s.jumpTo i a).pc := by
  rcases s.jumpTo_cases i a with ⟨hin, e⟩ | ⟨-, e⟩ <;> rw [e]
  · exact pcInRange_of_region hwf hin
  · exact hpc

theorem skipIf_pcInRange (i : Instr) (c : Bool) : PCInRange s.cfg (s.skipIf i c).pc := by
  unfold State.skipIf
  split
  · exact jumpTo_pcInRange hwf hpc i _
  · exact hpc

theorem callTo_pcInRange (i : Instr) (a : Nat) : PCInRange s.cfg (s.callTo i a).pc := by
  rcases s.callTo_cases i a with ⟨-, e⟩ | ⟨-, -, e⟩ | ⟨_, hin, e⟩ <;> rw [e]
  · exact hpc
  · exact hpc
  · exact pcInRange_of_region hwf hin

end

/-- An instruction whose `PC` has moved past its word keeps `PC` in range: a return goes to a live entry, and the key
wait goes back by the two bytes of its own word. -/
theorem effect_pcInRange {s : State} (h : Inv s) (hpast : s.cfg.loadAddr + 2 ≤ s.pc.toNat) (i : Instr) :
    PCInRange s.cfg (effect i s).pc := by
  have hpc : PCInRange s.cfg s.pc := ⟨h.pc_low, h.pc_high⟩
  cases i
  case jp | jpV0 => exact jumpTo_pcInRange h.cfg_wf hpc _ _
  case call => exact callTo_pcInRange h.cfg_wf hpc _ _
  case seVxKk | sneVxKk | seVxVy | sneVxVy => exact skipIf_pcInRange h.cfg_wf hpc _ _
  case skp | sknp =>
    simp only [effect]
    split
    · exact hpc
    · exact skipIf_pcInRange h.cfg_wf hpc _ _
  case ret =>
    simp only [effect]
    rcases s.returnFrom_cases .ret with ⟨-, e⟩ | ⟨k, hk, hsp, e⟩ <;> rw [e]
    · exact hpc
    · have hlive := h.stack_live k hk (by omega)
      exact ⟨by simp only; omega, hlive.2⟩
  case ldVxK =>
    simp only [effect]
    split
    · have hback : (s.pc - 2).toNat = s.pc.toNat - 2 := by bv_omega
      have := h.pc_high
      rw [PCInRange, hback]
      omega
    · exact hpc
    · exact hpc
  all_goals
    rw [effect_pc rfl]
    exact hpc

/-- Every live stack entry is a return address (41_control_flow.md R133). -/
def StackLive (s : State) : Prop :=
  ∀ k (h : k < 16), k < s.sp.val → s.cfg.loadAddr + 2 ≤ (s.stack[k]).toNat ∧ (s.stack[k]).toNat ≤ s.cfg.memSize

theorem StackLive.congr {s t : State} (h : StackLive s) (hcfg : t.cfg = s.cfg) (hstack : t.stack = s.stack)
    (hsp : t.sp = s.sp) : StackLive t := by
  simpa only [StackLive, hcfg, hstack, hsp] using h

/-- A call pushes a `PC` that has moved past its word; a return only shortens the stack. -/
theorem effect_stackLive {s : State} (h : Inv s) (hpast : s.cfg.loadAddr + 2 ≤ s.pc.toNat) (i : Instr) :
    StackLive (effect i s) := by
  have hlive : StackLive s := h.stack_live
  cases i
  case call nnn =>
    simp only [effect]
    rcases s.callTo_cases (.call nnn) nnn.toNat with ⟨-, e⟩ | ⟨-, -, e⟩ | ⟨hsp, -, e⟩ <;> rw [e]
    · exact hlive
    · exact hlive
    · intro k hk hlt
      simp only [Vector.getElem_set] at hlt ⊢
      split
      · exact ⟨hpast, h.pc_high⟩
      · exact hlive k hk (by omega)
  case ret =>
    simp only [effect]
    rcases s.returnFrom_cases .ret with ⟨-, e⟩ | ⟨k, _, hsp, e⟩ <;> rw [e]
    · exact hlive
    · exact fun j hj hlt => hlive j hj (by simp only at hlt; omega)
  all_goals
    exact hlive.congr (exec_session (exec_eq_effect _ s)).1 (effect_stack (by nofun) s)
      (effect_sp (by nofun) (by nofun) s)

/-- A running instruction, its `PC` past its word, keeps the invariant. -/
theorem effect_keeps_inv {s : State} (h : Inv s) (hrun : s.run = .running)
    (hpast : s.cfg.loadAddr + 2 ≤ s.pc.toNat) (i : Instr) : Inv (effect i s) := by
  obtain ⟨hcfg, -, hend, -⟩ := exec_session (exec_eq_effect i s)
  obtain ⟨hlow, hhigh⟩ := effect_pcInRange h hpast i
  have hrecord : ((effect i s).run = .running ∧ (effect i s).halt = HaltRecord.zero) ∨
      ((effect i s).run = .halted ∧ (effect i s).halt.cause ≠ .none) := by
    rcases exec_goesOnOrHalts (exec_eq_effect i s) with ⟨hr, hh⟩ | ⟨hr, -, -, -, hcause, -⟩
    · exact .inl ⟨hr.trans hrun, hh.trans (h.record_running hrun)⟩
    · exact .inr ⟨hr, hcause⟩
  constructor
  · rw [hcfg]; exact h.cfg_wf
  · rw [hcfg]; exact effect_mem_wf h.mem_wf i
  · rw [hcfg]; exact hlow
  · rw [hcfg]; exact hhigh
  · rw [hcfg, hend]; exact h.end_low
  · rw [hcfg, hend]; exact h.end_high
  · exact effect_stackLive h hpast i
  · intro hr
    rcases hrecord with ⟨-, hh⟩ | ⟨hr', -⟩
    · exact hh
    · rw [hr] at hr'; cases hr'
  · intro hr
    rcases hrecord with ⟨hr', -⟩ | ⟨-, hh⟩
    · rw [hr] at hr'; cases hr'
    · exact hh

/-! ## The transitions -/

/-- Before the word at `PC` is executed `PC` moves past it, which stays in range as the word lies in memory. -/
theorem Inv.advance {s : State} (h : Inv s) (hin : s.pc.toNat + 1 < s.cfg.memSize) :
    Inv { s with pc := s.pc + 2 } ∧ s.cfg.loadAddr + 2 ≤ (s.pc + 2).toNat := by
  obtain ⟨-, hmax, -⟩ := (wf_iff s.cfg).1 h.cfg_wf
  have hpc : (s.pc + 2).toNat = s.pc.toNat + 2 := by bv_omega
  have hlow := h.pc_low
  exact ⟨{ h with
    pc_low := by simp only; omega
    pc_high := by simp only; omega }, by omega⟩

theorem engineStep_keeps_inv {s t : State} (h : Inv s) (hstep : engineStep s = .next t) : Inv t := by
  rcases s.run_cases with hrun | hrun
  · rcases engineStep_cases hrun with ⟨-, e⟩ | ⟨-, -, e⟩ | ⟨-, hin, e⟩ <;> rw [e] at hstep
    · cases hstep
      exact h.haltAt (by decide) _ _ _ _
    · cases hstep
      exact h.haltAt (by decide) _ _ _ _
    · obtain ⟨hadv, hpast⟩ := h.advance hin
      cases hdec : decode (wordOfBytes (s.byteAt s.pc.toNat) (s.byteAt (s.pc.toNat + 1))) with
      | ok i =>
        rw [execWord_ok hdec] at hstep
        rw [eq_effect_of_exec hstep]
        exact effect_keeps_inv hadv hrun hpast i
      | error r =>
        rw [execWord_error hdec] at hstep
        cases hstep
        exact hadv.haltAt (by decide) _ _ _ _
  · cases (engineStep_halted hrun).symm.trans hstep
    exact h

theorem resetWith_inv {s : State} (hwf : s.cfg.wf = true) (q : QCfg) (prog : List Byte) : Inv (s.resetWith q prog) := by
  obtain ⟨-, -, hload, -⟩ := (wf_iff s.cfg).1 hwf
  obtain ⟨hpc, hend⟩ := toNat_ofNat_of_le hwf hload.le
  rcases Nat.lt_or_ge (s.cfg.memSize - s.cfg.loadAddr) prog.length with h | h
  · rw [resetWith_of_too_large h]
    exact {
      cfg_wf := hwf
      mem_wf := rfl
      pc_low := hpc.ge
      pc_high := hpc.trans_le hload.le
      end_low := hend.ge
      end_high := hend.trans_le hload.le
      stack_live := fun k _ hk => absurd hk (Nat.not_lt_zero k)
      record_running := nofun
      record_halted := fun _ => nofun }
  · obtain ⟨-, hend⟩ := toNat_ofNat_of_le hwf (show s.cfg.loadAddr + prog.length ≤ s.cfg.memSize by omega)
    rw [resetWith_of_fits h]
    exact {
      cfg_wf := hwf
      mem_wf := Memory.wf_load (by simp only [State.clearCore_cfg]; omega) rfl
      pc_low := hpc.ge
      pc_high := hpc.trans_le hload.le
      end_low := hend.ge.trans' (Nat.le_add_right _ _)
      end_high := hend.trans_le (by simp only [State.clearCore_cfg]; omega)
      stack_live := fun k _ hk => absurd hk (Nat.not_lt_zero k)
      record_running := fun _ => rfl
      record_halted := nofun }

/-- Settles O55: moving the schedule on keeps the invariant, then one case for each transition. -/
theorem stepKeepsTheInvariant : Obligations.StepKeepsTheInvariant := by
  intro s t h hstep
  rcases step_cases s with ⟨-, e⟩ | ⟨-, e⟩ | ⟨k, -, e⟩ | ⟨q, prog, -, e⟩ <;> rw [e] at hstep
  · exact engineStep_keeps_inv h.popDue hstep
  · cases hstep
    exact h.popDue.tick
  · cases hstep
    exact h.popDue.setKey k
  · cases hstep
    exact resetWith_inv h.popDue.cfg_wf q prog

end Sys2Proof.Machine
end
